-- ==== Sys2Proof/Word.lean ====
section
/-! DEFINITION. The plain words of the model: bytes, code lengths and bit strings. -/

namespace Sys2Proof

/-- One byte of the input, the window or the output. -/
abbrev Byte := BitVec 8

/-- One code length of the literal/length or distance alphabet, 0 to 15 (10_state R110, R126; 44_code_lengths R802). -/
abbrev CodeLen := BitVec 4

/-- A bit string in stream order: the first bit of the stream stands first (00_scope R8). -/
abbrev Bits := List Bool

/-- The `n` bits of `v` in FIELD order: least significant bit first (00_scope R10). -/
def fieldBits : (n v : Nat) → Bits
  | 0, _ => []
  | n + 1, v => (v % 2 == 1) :: fieldBits n (v / 2)

/-- The `n` bits of `v` in CODE order: most significant bit first (00_scope R10, 42_huffman R605). -/
def codeBits (n v : Nat) : Bits := (fieldBits n v).reverse

end Sys2Proof
end

