-- ==== Sys2Proof/Config.lean ====
section
/-! DEFINITION. What an implementation fixes (00_scope R7): the fixed parameters, and the one the spec leaves OPEN. -/

namespace Sys2Proof.Config

/-- `WINDOW_SIZE`, the capacity of the history window (00_scope R7). -/
abbrev windowSize : Nat := 32768

/-- `MAX_CODE_LEN`, the longest codeword (00_scope R7). -/
abbrev maxCodeLen : Nat := 15

/-- `LL_ALPHABET`, the literal/length symbol slots (00_scope R7). -/
abbrev llAlphabet : Nat := 288

/-- `D_ALPHABET`, the distance symbol slots (00_scope R7). -/
abbrev dAlphabet : Nat := 32

/-- `CL_ALPHABET`, the code-length symbols (00_scope R7). -/
abbrev clAlphabet : Nat := 19

/-- The entries of `LENS`, 288 + 32 (10_state R126). -/
abbrev lensCapacity : Nat := 320

/-- The default of `FLUSH_THRESHOLD` (00_scope R7). -/
def flushThreshold : BitVec 16 := 1024

/-- `ZLIB_HEADER`, the build-time default of `cfg_zlib`. OPEN (92_eei_decisions D3): "A model takes it as an argument"
(91_not_in_source N3). No value: nothing may rest on either (assumption log 3). -/
opaque zlibHeader : Bool

end Sys2Proof.Config
end

