-- ==== Sys2Proof/Syntax.lean ====
section
/-! DEFINITION. The syntax of the whole instruction set: one constructor for every row of spec/opcode_table.json (the three
rows of CL_INVALID have one each). An argument is a field the row's word holds, or the operand port of a command. The extra
bits that FOLLOW a codeword (REP16, ZERO17, ZERO18, LEN_n, DIST_n) are no field of the row's word; the meaning reads them
(assumption log 8). -/

namespace Sys2Proof

/-- The three Huffman tables a DECODE command can name (42_huffman R610). -/
inductive TableSel where
  /-- TBL_CL -/
  | cl
  /-- TBL_LL -/
  | ll
  /-- TBL_D -/
  | d
  deriving DecidableEq, Repr

/-- The instructions: the syntax elements of the stream (30_encoding R300) and the internal operations (R370). -/
inductive Instr where
  /-- ZLIB_HEADER, the optional two-byte header (R301, R711). -/
  | zlibHeader (cmf flg : BitVec 8)
  /-- BLOCK_STORED, a block header with BTYPE 00 (R302, R712). -/
  | blockStored (bfinal : BitVec 1)
  /-- BLOCK_FIXED, a block header with BTYPE 01 (R302, R712). -/
  | blockFixed (bfinal : BitVec 1)
  /-- BLOCK_DYNAMIC, a block header with BTYPE 10 (R302, R712). -/
  | blockDynamic (bfinal : BitVec 1)
  /-- BLOCK_INVALID, a block header with BTYPE 11 (R330, R712). -/
  | blockInvalid (bfinal : BitVec 1)
  /-- STORED_HEADER, LEN and NLEN after the padding (R303, R720). -/
  | storedHeader (len nlen : BitVec 16)
  /-- STORED_BYTE, one raw byte (R721). -/
  | storedByte (b : BitVec 8)
  /-- DYN_HEADER (R304, R810). -/
  | dynHeader (hlit hdist : BitVec 5) (hclen : BitVec 4)
  /-- CLL, one code-length code length (R812). -/
  | cll (len : BitVec 3)
  /-- CL_LIT, code-length symbols 0 to 15 (R820). -/
  | clLit (c : BitVec 4)
  /-- REP16, code-length symbol 16 (R821). -/
  | rep16
  /-- ZERO17, code-length symbol 17 (R822). -/
  | zero17
  /-- ZERO18, code-length symbol 18 (R823). -/
  | zero18
  /-- CL_INVALID, code-length symbol 19 (R824). -/
  | clInvalid19
  /-- CL_INVALID, code-length symbols 20 to 23 (R824). -/
  | clInvalid20 (low : BitVec 2)
  /-- CL_INVALID, code-length symbols 24 to 31 (R824). -/
  | clInvalid24 (low : BitVec 3)
  /-- LIT, literal/length symbols 0 to 255 (R901). -/
  | lit (b : BitVec 8)
  /-- EOB, literal/length symbol 256 (R902). -/
  | eob
  /-- LEN_257, literal/length symbol 257 (R910). -/
  | len257
  /-- LEN_258, literal/length symbol 258 (R911). -/
  | len258
  /-- LEN_259, literal/length symbol 259 (R912). -/
  | len259
  /-- LEN_260, literal/length symbol 260 (R913). -/
  | len260
  /-- LEN_261, literal/length symbol 261 (R914). -/
  | len261
  /-- LEN_262, literal/length symbol 262 (R915). -/
  | len262
  /-- LEN_263, literal/length symbol 263 (R916). -/
  | len263
  /-- LEN_264, literal/length symbol 264 (R917). -/
  | len264
  /-- LEN_265, literal/length symbol 265 (R918). -/
  | len265
  /-- LEN_266, literal/length symbol 266 (R919). -/
  | len266
  /-- LEN_267, literal/length symbol 267 (R920). -/
  | len267
  /-- LEN_268, literal/length symbol 268 (R921). -/
  | len268
  /-- LEN_269, literal/length symbol 269 (R922). -/
  | len269
  /-- LEN_270, literal/length symbol 270 (R923). -/
  | len270
  /-- LEN_271, literal/length symbol 271 (R924). -/
  | len271
  /-- LEN_272, literal/length symbol 272 (R925). -/
  | len272
  /-- LEN_273, literal/length symbol 273 (R926). -/
  | len273
  /-- LEN_274, literal/length symbol 274 (R927). -/
  | len274
  /-- LEN_275, literal/length symbol 275 (R928). -/
  | len275
  /-- LEN_276, literal/length symbol 276 (R929). -/
  | len276
  /-- LEN_277, literal/length symbol 277 (R930). -/
  | len277
  /-- LEN_278, literal/length symbol 278 (R931). -/
  | len278
  /-- LEN_279, literal/length symbol 279 (R932). -/
  | len279
  /-- LEN_280, literal/length symbol 280 (R933). -/
  | len280
  /-- LEN_281, literal/length symbol 281 (R934). -/
  | len281
  /-- LEN_282, literal/length symbol 282 (R935). -/
  | len282
  /-- LEN_283, literal/length symbol 283 (R936). -/
  | len283
  /-- LEN_284, literal/length symbol 284 (R937). -/
  | len284
  /-- LEN_285, literal/length symbol 285 (R938). -/
  | len285
  /-- LL_INVALID, literal/length symbols 286 and 287 (R903). -/
  | llInvalid (low : BitVec 1)
  /-- DIST_0, distance symbol 0 (R950). -/
  | dist0
  /-- DIST_1, distance symbol 1 (R951). -/
  | dist1
  /-- DIST_2, distance symbol 2 (R952). -/
  | dist2
  /-- DIST_3, distance symbol 3 (R953). -/
  | dist3
  /-- DIST_4, distance symbol 4 (R954). -/
  | dist4
  /-- DIST_5, distance symbol 5 (R955). -/
  | dist5
  /-- DIST_6, distance symbol 6 (R956). -/
  | dist6
  /-- DIST_7, distance symbol 7 (R957). -/
  | dist7
  /-- DIST_8, distance symbol 8 (R958). -/
  | dist8
  /-- DIST_9, distance symbol 9 (R959). -/
  | dist9
  /-- DIST_10, distance symbol 10 (R960). -/
  | dist10
  /-- DIST_11, distance symbol 11 (R961). -/
  | dist11
  /-- DIST_12, distance symbol 12 (R962). -/
  | dist12
  /-- DIST_13, distance symbol 13 (R963). -/
  | dist13
  /-- DIST_14, distance symbol 14 (R964). -/
  | dist14
  /-- DIST_15, distance symbol 15 (R965). -/
  | dist15
  /-- DIST_16, distance symbol 16 (R966). -/
  | dist16
  /-- DIST_17, distance symbol 17 (R967). -/
  | dist17
  /-- DIST_18, distance symbol 18 (R968). -/
  | dist18
  /-- DIST_19, distance symbol 19 (R969). -/
  | dist19
  /-- DIST_20, distance symbol 20 (R970). -/
  | dist20
  /-- DIST_21, distance symbol 21 (R971). -/
  | dist21
  /-- DIST_22, distance symbol 22 (R972). -/
  | dist22
  /-- DIST_23, distance symbol 23 (R973). -/
  | dist23
  /-- DIST_24, distance symbol 24 (R974). -/
  | dist24
  /-- DIST_25, distance symbol 25 (R975). -/
  | dist25
  /-- DIST_26, distance symbol 26 (R976). -/
  | dist26
  /-- DIST_27, distance symbol 27 (R977). -/
  | dist27
  /-- DIST_28, distance symbol 28 (R978). -/
  | dist28
  /-- DIST_29, distance symbol 29 (R979). -/
  | dist29
  /-- D_INVALID, distance symbols 30 and 31 (R943). -/
  | dInvalid (low : BitVec 1)
  /-- CMD_TAKE_FIELD n (R410). -/
  | cmdTakeField (n : Nat)
  /-- CMD_TAKE_CODE n (R411). -/
  | cmdTakeCode (n : Nat)
  /-- CMD_PEEK_FIELD n (R412). -/
  | cmdPeekField (n : Nat)
  /-- CMD_PEEK_CODE n (R413). -/
  | cmdPeekCode (n : Nat)
  /-- CMD_DISCARD n (R414). -/
  | cmdDiscard (n : Nat)
  /-- CMD_ALIGN (R415). -/
  | cmdAlign
  /-- CMD_STARTS_WITH s (R416). -/
  | cmdStartsWith (pattern : Bits)
  /-- CMD_HAS_BITS n (R417). -/
  | cmdHasBits (n : Nat)
  /-- CMD_APPEND_LITERAL b (R501). -/
  | cmdAppendLiteral (b : BitVec 8)
  /-- CMD_APPEND_BACKREF d (R502). -/
  | cmdAppendBackref (d : Nat)
  /-- CMD_LAST_N n (R503). -/
  | cmdLastN (n : Nat)
  /-- CMD_WIN_READ i (R504). -/
  | cmdWinRead (i : Nat)
  /-- CMD_BUILD lens (R601). -/
  | cmdBuild (lens : List CodeLen)
  /-- CMD_DECODE table (R610). -/
  | cmdDecode (table : TableSel)
  /-- CMD_RESERVED, operation codes 0xE and 0xF (R371). -/
  | cmdReserved (low : BitVec 1)
  deriving DecidableEq, Repr

end Sys2Proof
end

