-- ==== Sys2Proof/Decode.lean ====
section
/-! DEFINITION. The decoder of the ten word formats of the opcode table, and after it the encoder written from the same maps
(30_encoding R301-R306, R340-R343, R370). A word is numbered as spec/opcode_table.json numbers it. Which format the machine
reads next is the state's business (Machine/Operands.lean, Machine/Fetch.lean); which codeword a symbol has is the tables'
(Machine/Huffman.lean). -/

namespace Sys2Proof

/-- The word formats of the opcode table. -/
inductive Format where
  /-- ZLIB_HDR16 (R301) -/
  | zlibHdr16
  /-- BLOCK_HDR3 (R302) -/
  | blockHdr3
  /-- STORED_HDR32 (R303) -/
  | storedHdr32
  /-- BYTE8 (R303) -/
  | byte8
  /-- DYN_HDR14 (R304) -/
  | dynHdr14
  /-- CLL3 (R304) -/
  | cll3
  /-- CL_SYM5: a decoded code-length symbol (R343) -/
  | clSym5
  /-- LL_SYM9: a decoded literal/length symbol (R341) -/
  | llSym9
  /-- D_SYM5: a decoded distance symbol (R342) -/
  | dSym5
  /-- CMD4: an internal operation code (R370) -/
  | cmd4
  deriving DecidableEq, Repr

/-- The bits of a format's word. -/
def Format.bits : Format → Nat
  | .zlibHdr16 => 16
  | .blockHdr3 => 3
  | .storedHdr32 => 32
  | .byte8 => 8
  | .dynHdr14 => 14
  | .cll3 => 3
  | .clSym5 => 5
  | .llSym9 => 9
  | .dSym5 => 5
  | .cmd4 => 4

/-- The operand port of a command (30_encoding R370: "The operand and the result travel on separate ports"). Each operation
looks at the one field that is its operand. -/
structure Operand where
  /-- a width, a byte, a distance, a count or a position -/
  n : Nat
  /-- a bit pattern -/
  pattern : Bits
  /-- a length array -/
  lens : List CodeLen
  /-- a table -/
  table : TableSel
  deriving DecidableEq, Repr

/-- The operand port with nothing on it: every bit 0. -/
def Operand.zero : Operand := ⟨0, [], [], .cl⟩

/-- Why a word is no instruction. -/
inductive DecodeError where
  /-- the word has a bit above its format's width -/
  | wordTooWide (f : Format) (w : Nat)
  /-- the literal/length symbol is above 287 -/
  | noSuchSymbol (w : Nat)
  /-- the byte operand of APPEND_LITERAL is above 255 -/
  | operandTooWide (n : Nat)
  deriving DecidableEq, Repr

/-- Literal/length symbols 257 to 285, in order (R341). -/
def lengthInstrs : List Instr :=
  [.len257, .len258, .len259, .len260, .len261, .len262, .len263, .len264, .len265, .len266,
   .len267, .len268, .len269, .len270, .len271, .len272, .len273, .len274, .len275, .len276,
   .len277, .len278, .len279, .len280, .len281, .len282, .len283, .len284, .len285]

/-- Distance symbols 0 to 29, in order (R342). -/
def distInstrs : List Instr :=
  [.dist0, .dist1, .dist2, .dist3, .dist4, .dist5, .dist6, .dist7, .dist8, .dist9,
   .dist10, .dist11, .dist12, .dist13, .dist14, .dist15, .dist16, .dist17, .dist18, .dist19,
   .dist20, .dist21, .dist22, .dist23, .dist24, .dist25, .dist26, .dist27, .dist28, .dist29]

/-- Block header, H = BFINAL + 2·BTYPE (R302, R340). -/
def decodeBlockHdr (w : Nat) : Instr :=
  if w / 2 = 0 then .blockStored (BitVec.ofNat 1 w)
  else if w / 2 = 1 then .blockFixed (BitVec.ofNat 1 w)
  else if w / 2 = 2 then .blockDynamic (BitVec.ofNat 1 w)
  else .blockInvalid (BitVec.ofNat 1 w)

/-- Code-length symbol (R343, R824). -/
def decodeClSym (w : Nat) : Instr :=
  if w < 16 then .clLit (BitVec.ofNat 4 w)
  else if w = 16 then .rep16
  else if w = 17 then .zero17
  else if w = 18 then .zero18
  else if w = 19 then .clInvalid19
  else if w < 24 then .clInvalid20 (BitVec.ofNat 2 (w - 20))
  else .clInvalid24 (BitVec.ofNat 3 (w - 24))

/-- Literal/length symbol (R341). -/
def decodeLlSym (w : Nat) : Except DecodeError Instr :=
  if w < 256 then .ok (.lit (BitVec.ofNat 8 w))
  else if w = 256 then .ok .eob
  else match lengthInstrs[w - 257]? with
    | some i => .ok i
    | none => if w < 288 then .ok (.llInvalid (BitVec.ofNat 1 (w - 286))) else .error (.noSuchSymbol w)

/-- Distance symbol (R342). -/
def decodeDSym (w : Nat) : Instr :=
  match distInstrs[w]? with
  | some i => i
  | none => .dInvalid (BitVec.ofNat 1 (w - 30))

/-- Internal operation code with its operand port (R370, R371). -/
def decodeCmd (w : Nat) (port : Operand) : Except DecodeError Instr :=
  match w with
  | 0 => .ok (.cmdTakeField port.n)
  | 1 => .ok (.cmdTakeCode port.n)
  | 2 => .ok (.cmdPeekField port.n)
  | 3 => .ok (.cmdPeekCode port.n)
  | 4 => .ok (.cmdDiscard port.n)
  | 5 => .ok .cmdAlign
  | 6 => .ok (.cmdStartsWith port.pattern)
  | 7 => .ok (.cmdHasBits port.n)
  | 8 => if port.n < 256 then .ok (.cmdAppendLiteral (BitVec.ofNat 8 port.n)) else .error (.operandTooWide port.n)
  | 9 => .ok (.cmdAppendBackref port.n)
  | 10 => .ok (.cmdLastN port.n)
  | 11 => .ok (.cmdWinRead port.n)
  | 12 => .ok (.cmdBuild port.lens)
  | 13 => .ok (.cmdDecode port.table)
  | w => .ok (.cmdReserved (BitVec.ofNat 1 (w - 14)))

/-- The decoder: total on every format, word and operand port, rejecting by name. A syntax element of the stream has no
operand port. -/
def decode (f : Format) (w : Nat) (port : Operand) : Except DecodeError Instr :=
  if 2 ^ f.bits ≤ w then .error (.wordTooWide f w)
  else match f with
    | .zlibHdr16 => .ok (.zlibHeader (BitVec.ofNat 8 (w / 256)) (BitVec.ofNat 8 w))
    | .blockHdr3 => .ok (decodeBlockHdr w)
    | .storedHdr32 => .ok (.storedHeader (BitVec.ofNat 16 w) (BitVec.ofNat 16 (w / 65536)))
    | .byte8 => .ok (.storedByte (BitVec.ofNat 8 w))
    | .dynHdr14 => .ok (.dynHeader (BitVec.ofNat 5 w) (BitVec.ofNat 5 (w / 32)) (BitVec.ofNat 4 (w / 1024)))
    | .cll3 => .ok (.cll (BitVec.ofNat 3 w))
    | .clSym5 => .ok (decodeClSym w)
    | .llSym9 => decodeLlSym w
    | .dSym5 => .ok (decodeDSym w)
    | .cmd4 => decodeCmd w port

/-- An encoded instruction: its format, its word, and what stands on the operand port of a command. -/
structure Element where
  fmt : Format
  word : Nat
  port : Operand
  deriving DecidableEq, Repr

/-- An element with nothing on the operand port. -/
def Element.of (f : Format) (w : Nat) : Element := ⟨f, w, .zero⟩

/-- A command whose operand is a number. -/
def Element.cmdN (op n : Nat) : Element := ⟨.cmd4, op, { Operand.zero with n := n }⟩

/-- The encoder, from the same maps. -/
def encode : Instr → Element
  | .zlibHeader cmf flg => .of .zlibHdr16 (cmf.toNat * 256 + flg.toNat)
  | .blockStored bfinal => .of .blockHdr3 bfinal.toNat
  | .blockFixed bfinal => .of .blockHdr3 (bfinal.toNat + 2)
  | .blockDynamic bfinal => .of .blockHdr3 (bfinal.toNat + 4)
  | .blockInvalid bfinal => .of .blockHdr3 (bfinal.toNat + 6)
  | .storedHeader len nlen => .of .storedHdr32 (len.toNat + 65536 * nlen.toNat)
  | .storedByte b => .of .byte8 b.toNat
  | .dynHeader hlit hdist hclen => .of .dynHdr14 (hlit.toNat + 32 * hdist.toNat + 1024 * hclen.toNat)
  | .cll len => .of .cll3 len.toNat
  | .clLit c => .of .clSym5 c.toNat
  | .rep16 => .of .clSym5 16
  | .zero17 => .of .clSym5 17
  | .zero18 => .of .clSym5 18
  | .clInvalid19 => .of .clSym5 19
  | .clInvalid20 low => .of .clSym5 (20 + low.toNat)
  | .clInvalid24 low => .of .clSym5 (24 + low.toNat)
  | .lit b => .of .llSym9 b.toNat
  | .eob => .of .llSym9 256
  | .len257 => .of .llSym9 257
  | .len258 => .of .llSym9 258
  | .len259 => .of .llSym9 259
  | .len260 => .of .llSym9 260
  | .len261 => .of .llSym9 261
  | .len262 => .of .llSym9 262
  | .len263 => .of .llSym9 263
  | .len264 => .of .llSym9 264
  | .len265 => .of .llSym9 265
  | .len266 => .of .llSym9 266
  | .len267 => .of .llSym9 267
  | .len268 => .of .llSym9 268
  | .len269 => .of .llSym9 269
  | .len270 => .of .llSym9 270
  | .len271 => .of .llSym9 271
  | .len272 => .of .llSym9 272
  | .len273 => .of .llSym9 273
  | .len274 => .of .llSym9 274
  | .len275 => .of .llSym9 275
  | .len276 => .of .llSym9 276
  | .len277 => .of .llSym9 277
  | .len278 => .of .llSym9 278
  | .len279 => .of .llSym9 279
  | .len280 => .of .llSym9 280
  | .len281 => .of .llSym9 281
  | .len282 => .of .llSym9 282
  | .len283 => .of .llSym9 283
  | .len284 => .of .llSym9 284
  | .len285 => .of .llSym9 285
  | .llInvalid low => .of .llSym9 (286 + low.toNat)
  | .dist0 => .of .dSym5 0
  | .dist1 => .of .dSym5 1
  | .dist2 => .of .dSym5 2
  | .dist3 => .of .dSym5 3
  | .dist4 => .of .dSym5 4
  | .dist5 => .of .dSym5 5
  | .dist6 => .of .dSym5 6
  | .dist7 => .of .dSym5 7
  | .dist8 => .of .dSym5 8
  | .dist9 => .of .dSym5 9
  | .dist10 => .of .dSym5 10
  | .dist11 => .of .dSym5 11
  | .dist12 => .of .dSym5 12
  | .dist13 => .of .dSym5 13
  | .dist14 => .of .dSym5 14
  | .dist15 => .of .dSym5 15
  | .dist16 => .of .dSym5 16
  | .dist17 => .of .dSym5 17
  | .dist18 => .of .dSym5 18
  | .dist19 => .of .dSym5 19
  | .dist20 => .of .dSym5 20
  | .dist21 => .of .dSym5 21
  | .dist22 => .of .dSym5 22
  | .dist23 => .of .dSym5 23
  | .dist24 => .of .dSym5 24
  | .dist25 => .of .dSym5 25
  | .dist26 => .of .dSym5 26
  | .dist27 => .of .dSym5 27
  | .dist28 => .of .dSym5 28
  | .dist29 => .of .dSym5 29
  | .dInvalid low => .of .dSym5 (30 + low.toNat)
  | .cmdTakeField n => .cmdN 0 n
  | .cmdTakeCode n => .cmdN 1 n
  | .cmdPeekField n => .cmdN 2 n
  | .cmdPeekCode n => .cmdN 3 n
  | .cmdDiscard n => .cmdN 4 n
  | .cmdAlign => .of .cmd4 5
  | .cmdStartsWith p => ⟨.cmd4, 6, { Operand.zero with pattern := p }⟩
  | .cmdHasBits n => .cmdN 7 n
  | .cmdAppendLiteral b => .cmdN 8 b.toNat
  | .cmdAppendBackref d => .cmdN 9 d
  | .cmdLastN n => .cmdN 10 n
  | .cmdWinRead i => .cmdN 11 i
  | .cmdBuild lens => ⟨.cmd4, 12, { Operand.zero with lens := lens }⟩
  | .cmdDecode t => ⟨.cmd4, 13, { Operand.zero with table := t }⟩
  | .cmdReserved low => .of .cmd4 (14 + low.toNat)

/-- The format a bare table word is read in. A word of the table alone does not say its format: the formats share their
words, and the hardware knows the format from the FSM state (R346). DESIGN CHOICE, assumption log 6: by the number of bits in
whole bytes, the format with the most rows first (D_SYM5 in one byte, LL_SYM9 in two), then the formats whose words are too
large for it. The widths 3, 4, 5, 9 and 14 name a format themselves. -/
def tableFormat (nbits w : Nat) : Option Format :=
  match nbits with
  | 3 => some .blockHdr3
  | 4 => some .cmd4
  | 5 => some .clSym5
  | 8 => if w < 32 then some .dSym5 else some .byte8
  | 9 => some .llSym9
  | 14 => some .dynHdr14
  | 16 => if w < 512 then some .llSym9 else if w < 16384 then some .dynHdr14 else some .zlibHdr16
  | 32 => some .storedHdr32
  | _ => none

/-- The instruction the decoder reads from a table word (none where it refuses). -/
def decodeTableWord (nbits w : Nat) : Option Instr :=
  match tableFormat nbits w with
  | none => none
  | some f => (decode f w .zero).toOption

end Sys2Proof
end

