-- ==== Sys2Proof/Machine/State.lean ====
section
/-! DEFINITION. The machine's state: every component of 10_state R101, grouped by the sub-block that owns it, and the host's
side of the ports as plain data of the model's own (`HostSide`, assumption logs 1, 10 and 21). The tables TBL_CL, TBL_LL and
TBL_D are functions of the lengths (R101: "A model may store only the lengths"; log 20). -/

namespace Sys2Proof.Machine

/-- The history window as (address, byte) cells in canonical form: addresses strictly rising and below 32768. An address that
is not listed holds no value (10_state R106, assumption log 4). -/
abbrev Memory := List Host.Cell

/-- The FSM states (10_state R120). -/
inductive FsmState where
  | idle | zhdr | hdr | storedHdr | storedCopy | fixedSetup | dynHdr | dynCll | dynClBuild | dynLens
  | dynBuild | bodySym | lenExtra | distSym | distExtra | copy | flush | blockEnd | done | error
  deriving DecidableEq, Repr

/-- The error kinds of err_kind (60_exceptions R1101); codes 11 to 15 are never written. -/
inductive ErrKind where
  | noError | endOfStream | invalidZlibHeader | invalidBlockType | uncompressedLengthMismatch | invalidSequenceSymbol
  | invalidCodeLengthCount | symbolDecodeError | invalidBackReference | oversubscribedCode | repeatWithoutPrevious
  deriving DecidableEq, Repr

/-- The bit reader's registers (10_state R102-R105). -/
structure BitReader where
  /-- the input bytes pulled in this session, in order -/
  inbuf : List Byte
  /-- bits buffered so far -/
  readbits : Nat
  /-- the bit cursor: the next unread bit -/
  offset : Nat
  /-- end of input has been signalled -/
  srcEnd : Bool
  deriving DecidableEq, Repr

/-- The history window's state (10_state R106-R109). -/
structure Window where
  /-- WIN -/
  mem : Memory
  /-- bytes produced in the session -/
  size : Nat
  /-- bytes handed to the sink in the session -/
  flushed : Nat
  deriving DecidableEq, Repr

/-- The Huffman length arrays (10_state R110). -/
structure Lengths where
  /-- CL_LEN, 19 entries -/
  clLen : List (BitVec 3)
  /-- LL_LEN, 288 entries -/
  llLen : List CodeLen
  /-- D_LEN, 32 entries -/
  dLen : List CodeLen
  /-- LL_N, the entries of LL_LEN in use -/
  llN : BitVec 9
  /-- D_N, the entries of D_LEN in use -/
  dN : BitVec 6
  deriving DecidableEq, Repr

/-- The block decoder's working registers (10_state R120-R129). -/
structure FsmRegs where
  state : FsmState
  retR : FsmState
  bfinalR : BitVec 1
  btypeR : BitVec 2
  hlitR : BitVec 5
  hdistR : BitVec 5
  hclenR : BitVec 4
  cllIdx : BitVec 5
  /-- LENS, 320 entries -/
  lens : List CodeLen
  lensN : BitVec 9
  storedRem : BitVec 16
  symR : BitVec 9
  lengthR : BitVec 9
  distR : BitVec 16
  copyRem : BitVec 9
  deriving DecidableEq, Repr

/-- The error registers (10_state R130). -/
structure ErrRegs where
  kind : ErrKind
  offset : Nat
  deriving DecidableEq, Repr

/-- The configuration (10_state R131). -/
structure CfgRegs where
  /-- cfg_zlib -/
  zlib : Bool
  /-- cfg_T -/
  flushT : BitVec 16
  deriving DecidableEq, Repr

/-- The registers of the host's view (10_state R140), numbered 0 to 5 in this order. -/
inductive HostReg where
  | ctrl | cfgT | status | errOffset | inBits | outBytes
  deriving DecidableEq, Repr

/-- One command of the command stream: its operation code and its operand port (30_encoding R370). -/
structure Command where
  op : BitVec 4
  port : Operand
  deriving DecidableEq, Repr

/-- What the host does between two steps of the core (60_exceptions R1120-R1123, R1134), and the testbench that issues a command
of the command stream (30_encoding R370). -/
inductive HostAction where
  /-- write a register of the view, all its fields at once -/
  | write (r : HostReg) (v : BitVec 64)
  /-- write the field CTRL.ZLIB_EN alone (R140, 70_reset R1203) -/
  | setZlib (b : Bool)
  /-- write the field CTRL.START alone with 1 (R140, 70_reset R1203) -/
  | start
  /-- apply reset (70_reset R1200) -/
  | reset
  /-- offer one more byte of the stream; a pending request takes it (R1120) -/
  | deliver (b : Byte)
  /-- signal end of input now (R1121) -/
  | endInput
  /-- drive out_ready (R1122) -/
  | ready (b : Bool)
  /-- issue one more command of the command stream (assumption log 10) -/
  | issue (c : Command)
  /-- do nothing: the core takes one step -/
  | pass
  deriving DecidableEq, Repr

/-- One byte the sink accepted, with its out_last mark (41_history_window R511). -/
structure OutByte where
  byte : Byte
  last : Bool
  deriving DecidableEq, Repr

/-- One codeword of a Huffman table: its length, its value and its symbol (42_huffman R600). -/
structure CodeEntry where
  len : Nat
  code : Nat
  sym : Nat
  deriving DecidableEq, Repr

/-- The result port of the sub-blocks (40_bitreader R400, 41_history_window R500, 42_huffman R601, R610). -/
inductive Response where
  /-- no command has completed yet -/
  | none
  /-- the operation completed and answers nothing -/
  | completed
  /-- a field or code value -/
  | value (v : Nat)
  /-- the Boolean of STARTS_WITH and HAS_BITS -/
  | flag (b : Bool)
  /-- the byte of WIN_READ -/
  | byte (b : Byte)
  /-- the bytes of LAST_N, oldest first -/
  | bytes (l : List Byte)
  /-- the range refusal of LAST_N and WIN_READ -/
  | rangeError
  /-- the table of BUILD -/
  | table (t : List CodeEntry)
  /-- the symbol of DECODE -/
  | symbol (s : Nat)
  deriving DecidableEq, Repr

/-- The host's side of the ports and the testbench's command stream: no state of the core. -/
structure HostSide where
  /-- bytes the source will deliver, one per request -/
  source : List Byte
  /-- with no byte left, the host answers a request with end of input -/
  sourceEnds : Bool
  /-- the level out_ready -/
  sinkReady : Bool
  /-- the host's further actions, the next first -/
  actions : List HostAction
  /-- what the sink has accepted in this session, in order -/
  emitted : List OutByte
  /-- the pending commands, the next first -/
  commands : List Command
  /-- the answer to the last command -/
  response : Response
  deriving DecidableEq, Repr

/-- The whole state. -/
structure State where
  rd : BitReader
  win : Window
  tbl : Lengths
  fsm : FsmRegs
  err : ErrRegs
  cfg : CfgRegs
  host : HostSide
  deriving DecidableEq, Repr

/-- Why the model stops with a fault. No run of the core reaches one (assumption log 17): each stands where the spec says the
case cannot occur. All are safe: the model stops where the hardware is said never to be. -/
inductive Fault where
  /-- A window byte that nothing has written is read (10_state R106: "a read of one as a fault that cannot occur"). Raised by
  AppendBackref, LAST_N, WIN_READ and FLUSH. Safe. -/
  | unwrittenWindow
  /-- An index outside ORDER or LENS (44_code_lengths R812, R820). Raised by CLL and CL_LIT. Safe. -/
  | arrayIndex
  /-- SYM_R outside 257-285 in LEN_EXTRA or outside 0-29 in DIST_EXTRA (45_body_symbols R940, R980). Raised by the fetch. Safe. -/
  | symbolRegister
  /-- A decoded symbol that its format does not have. Raised by the fetch. Safe. -/
  | noSuchSymbol
  deriving DecidableEq, Repr

/-- Why the model refuses. -/
inductive Refusal where
  /-- An instruction without a meaning; no arm of this model uses it. Safe. -/
  | notModelled (mnemonic : String)
  /-- Operation codes 0xE and 0xF (30_encoding R371: "A model refuses a command with either code"). Raised by CMD_RESERVED.
  Safe. -/
  | reservedCommand
  /-- A command operand outside its legal range (40_bitreader R400, 41_history_window R502, 42_huffman R601: a model refuses
  it). Raised by the commands and by AppendBackref. Safe. -/
  | illegalOperand
  deriving DecidableEq, Repr

/-- The host's side with nothing on it (DESIGN CHOICE, assumption log 21). -/
def HostSide.quiet : HostSide := ⟨[], false, false, [], [], [], .none⟩

/-- The state right after reset (70_reset R1201). -/
def State.reset : State where
  rd := { inbuf := [], readbits := 0, offset := 0, srcEnd := false }
  win := { mem := [], size := 0, flushed := 0 }
  tbl := { clLen := List.replicate 19 0, llLen := List.replicate 288 0, dLen := List.replicate 32 0, llN := 0, dN := 0 }
  fsm := { state := .idle, retR := .idle, bfinalR := 0, btypeR := 0, hlitR := 0, hdistR := 0, hclenR := 0, cllIdx := 0,
           lens := List.replicate 320 0, lensN := 0, storedRem := 0, symR := 0, lengthR := 0, distR := 0, copyRem := 0 }
  err := { kind := .noError, offset := 0 }
  cfg := { zlib := Config.zlibHeader, flushT := Config.flushThreshold }
  host := .quiet

end Sys2Proof.Machine
end

