-- ==== Sys2Proof/Machine/Ops.lean ====
section
/-! DEFINITION. The operations every meaning is built from: memory, the bit reader, the history window, the hold, taking an
exception and the reset. -/

namespace Sys2Proof.Machine

/-! ## Memory -/

/-- The canonical form from address `lo` on: strictly rising addresses inside the window. -/
def Memory.risingFrom (lo : Nat) : Memory → Bool
  | [] => true
  | (a, _) :: m => decide (lo ≤ a) && decide (a < Config.windowSize) && Memory.risingFrom (a + 1) m

/-- The canonical form of the window's memory. -/
def Memory.wf (m : Memory) : Bool := Memory.risingFrom 0 m

/-- The byte at address `k`; none where nothing has been written. -/
def Memory.read : Memory → Nat → Option Byte
  | [], _ => none
  | (a, b) :: m, k => if a = k then some b else Memory.read m k

/-- The memory with byte `v` at address `k`. -/
def Memory.write : Memory → Nat → Byte → Memory
  | [], k, v => [(k, v)]
  | (a, b) :: m, k, v =>
    if k < a then (k, v) :: (a, b) :: m
    else if k = a then (k, v) :: m
    else (a, b) :: Memory.write m k v

/-! ## How a step ends -/

/-- What ends a step's pseudocode before its last line (43_block_fsm R700, 60_exceptions R1100). -/
inductive Stop where
  /-- an input bit is missing and the source is not exhausted -/
  | hold
  /-- `raise K(o)` -/
  | raise (k : ErrKind) (o : Nat)
  /-- a case the spec says cannot occur -/
  | fault (f : Fault)
  /-- a command the spec tells a model to refuse -/
  | refuse (r : Refusal)
  deriving DecidableEq, Repr

/-- A piece of pseudocode: its value, or what ended the step. -/
abbrev Run (α : Type) := Except Stop α

/-- TAKING AN EXCEPTION, FaultEntry(K, o) (60_exceptions R1110): err_kind, err_offset, offset and the state ERROR are
written, nothing else. -/
def takeFault (k : ErrKind) (o : Nat) (s : State) : State :=
  { s with err.kind := k, err.offset := o, rd.offset := o, fsm.state := .error }

/-- THE WAY OUT OF ERROR. No operation returns from an exception (60_exceptions R1113); reset alone leaves ERROR and DONE
(70_reset R1200). Every component of the core takes its reset value, so a byte the core has taken is lost with inbuf. DESIGN
CHOICE (assumption log 15): the host keeps what is its own (the bytes the core has not taken, its ready level, its further
actions), and the next session pulls those bytes; the record of the session's output starts anew; commands still pending are
dropped, so that nothing holds right after a reset and in_req reads 0 (R1201). -/
def applyReset (s : State) : State :=
  { State.reset with host := { s.host with emitted := [], commands := [], response := .none } }

/-- The hold on input (40_bitreader R405, 60_exceptions R1120, R1121): the core asks for one byte; the source delivers it, or
signals end of input, or has not answered yet and nothing changes (R1124). The step is then tried again from its start
(assumption log 2). -/
def holdInput (s : State) : State :=
  match s.host.source with
  | b :: rest => { s with rd.inbuf := s.rd.inbuf ++ [b], rd.readbits := s.rd.readbits + 8, host.source := rest }
  | [] => if s.host.sourceEnds then { s with rd.srcEnd := true } else s

/-- How a step of the core that began in `s` ends (43_block_fsm R700): it completes with all its writes, or holds, or raises;
a hold and a raise drop the step's own writes. -/
def settle (s : State) : Run State → Host.Outcome State Fault Refusal
  | .ok t => .next t
  | .error .hold => .next (holdInput s)
  | .error (.raise k o) => .next (takeFault k o s)
  | .error (.fault f) => .fault f
  | .error (.refuse r) => .refused r

/-! ## The bit reader -/

/-- `InBit(k)`: bit `k mod 8` of input byte `k div 8` (00_scope R9). -/
def State.inBit (s : State) (k : Nat) : Bool := (s.rd.inbuf.getD (k / 8) 0).getLsbD (k % 8)

/-- `FieldValue(k, n)`: the first bit is the least significant (20_memory R211). -/
def fieldValue (s : State) : (k n : Nat) → Nat
  | _, 0 => 0
  | k, n + 1 => (s.inBit k).toNat + 2 * fieldValue s (k + 1) n

/-- `CodeValue(k, n)`: the first bit is the most significant (20_memory R212). -/
def codeValue (s : State) (k : Nat) : (n : Nat) → Nat
  | 0 => 0
  | n + 1 => 2 * codeValue s k n + (s.inBit (k + n)).toNat

/-- The next `n` bits of the input, in stream order. -/
def bitsAt (s : State) (k n : Nat) : Bits := (List.range n).map fun i => s.inBit (k + i)

/-- `offset <- offset + n`. -/
def State.advance (s : State) (n : Nat) : State := { s with rd.offset := s.rd.offset + n }

/-- `Ensure(m)` (40_bitreader R401). -/
def ensure (m : Nat) (s : State) : Run Unit :=
  if s.rd.offset + m ≤ s.rd.readbits then .ok ()
  else if s.rd.srcEnd then .error (.raise .endOfStream s.rd.offset)
  else .error .hold

/-- `TakeField(n)` (40_bitreader R410). -/
def takeField (n : Nat) (s : State) : Run (Nat × State) := do
  ensure n s
  return (fieldValue s s.rd.offset n, s.advance n)

/-- `TakeCode(n)` (40_bitreader R411). -/
def takeCode (n : Nat) (s : State) : Run (Nat × State) := do
  ensure n s
  return (codeValue s s.rd.offset n, s.advance n)

/-- `PeekField(n)` (40_bitreader R412). -/
def peekField (n : Nat) (s : State) : Run Nat := do
  ensure n s
  return fieldValue s s.rd.offset n

/-- `PeekCode(n)` (40_bitreader R413). -/
def peekCode (n : Nat) (s : State) : Run Nat := do
  ensure n s
  return codeValue s s.rd.offset n

/-- `Discard(n)` (40_bitreader R414). -/
def discard (n : Nat) (s : State) : Run State := do
  ensure n s
  return s.advance n

/-- The bits up to the next byte boundary. -/
def alignPad (s : State) : Nat := (8 - s.rd.offset % 8) % 8

/-- `Align()` (40_bitreader R415). -/
def align (s : State) : Run State := discard (alignPad s) s

/-- `StartsWith(p)` (40_bitreader R416). -/
def startsWith (p : Bits) (s : State) : Run Bool :=
  if s.rd.offset + p.length ≤ s.rd.readbits then .ok (bitsAt s s.rd.offset p.length == p)
  else if s.rd.srcEnd then .ok false
  else .error .hold

/-- `HasBits(n)` (40_bitreader R417). -/
def hasBits (n : Nat) (s : State) : Run Bool :=
  if s.rd.offset + n ≤ s.rd.readbits then .ok true
  else if s.rd.srcEnd then .ok false
  else .error .hold

/-! ## The history window -/

/-- The byte of logical position `j`, at `WIN[j mod 32768]` (20_memory R201). -/
def winByte (j : Nat) (s : State) : Run Byte :=
  match s.win.mem.read (j % Config.windowSize) with
  | some b => .ok b
  | none => .error (.fault .unwrittenWindow)

/-- `Append(b)` (41_history_window R501). -/
def append (b : Byte) (s : State) : State :=
  { s with win.mem := s.win.mem.write (s.win.size % Config.windowSize) b, win.size := s.win.size + 1 }

/-- `AppendBackref(d)` (41_history_window R502): the read comes before the write. -/
def appendBackref (d : Nat) (s : State) : Run State :=
  if d = 0 ∨ Config.windowSize < d then .error (.refuse .illegalOperand)
  else if s.win.size < d then .error (.raise .invalidBackReference s.rd.offset)
  else do
    let b ← winByte (s.win.size - d) s
    return append b s

/-- Positions `j`, `j + 1`, … of the window, `n` of them. -/
def winBytes : (j n : Nat) → State → Run (List Byte)
  | _, 0, _ => .ok []
  | j, n + 1, s => do
    let b ← winByte j s
    let rest ← winBytes (j + 1) n s
    return b :: rest

/-- `LastN(n)` (41_history_window R503); none is the range refusal. -/
def lastN (n : Nat) (s : State) : Run (Option (List Byte)) :=
  if min s.win.size Config.windowSize < n then .ok none
  else do
    let l ← winBytes (s.win.size - n) n s
    return some l

/-- `WinRead(i)` (41_history_window R504); none is the range refusal. -/
def winRead (i : Nat) (s : State) : Run (Option Byte) :=
  if s.win.size - Config.windowSize ≤ i ∧ i < s.win.size then do
    let b ← winByte i s
    return some b
  else .ok none

/-- `FlushCheck(next)`, the tail of every step that appends (41_history_window R512). -/
def flushCheck (next : FsmState) (s : State) : State :=
  if s.win.size - s.win.flushed = s.cfg.flushT.toNat then { s with fsm.retR := next, fsm.state := .flush }
  else { s with fsm.state := next }

end Sys2Proof.Machine
end

