-- ==== Sys2Proof/Machine/Flags.lean ====
section
/-! DEFINITION. The flags and the numeric codes the host sees (10_state R120, R136, R140; 60_exceptions R1101). No flag is a
side effect of arithmetic (R136). -/

namespace Sys2Proof.Machine

/-- The state code (10_state R120). -/
def FsmState.code : FsmState → BitVec 5
  | .idle => 0
  | .zhdr => 1
  | .hdr => 2
  | .storedHdr => 3
  | .storedCopy => 4
  | .fixedSetup => 5
  | .dynHdr => 6
  | .dynCll => 7
  | .dynClBuild => 8
  | .dynLens => 9
  | .dynBuild => 10
  | .bodySym => 11
  | .lenExtra => 12
  | .distSym => 13
  | .distExtra => 14
  | .copy => 15
  | .flush => 16
  | .blockEnd => 17
  | .done => 18
  | .error => 19

/-- The error code (60_exceptions R1101). -/
def ErrKind.code : ErrKind → BitVec 4
  | .noError => 0
  | .endOfStream => 1
  | .invalidZlibHeader => 2
  | .invalidBlockType => 3
  | .uncompressedLengthMismatch => 4
  | .invalidSequenceSymbol => 5
  | .invalidCodeLengthCount => 6
  | .symbolDecodeError => 7
  | .invalidBackReference => 8
  | .oversubscribedCode => 9
  | .repeatWithoutPrevious => 10

/-- The flag `done` (10_state R136). -/
def doneFlag (s : State) : Bool := s.fsm.state == .done

/-- The flag `error` (10_state R136). -/
def errorFlag (s : State) : Bool := s.fsm.state == .error

/-- `out_valid`: FLUSH offers a byte (60_exceptions R1122). DESIGN CHOICE: also while a command of the command stream is pending,
whose step comes first; the spec is silent there (assumption log 10). -/
def outValid (s : State) : Bool := s.fsm.state == .flush

/-- The status bit WAIT_OUT: FLUSH is held because the sink has not accepted (43_block_fsm R701). DESIGN CHOICE: it reports the
FSM's hold also while a command is pending in FLUSH, although the current step is then the command's; the spec is silent
there (assumption log 10). -/
def waitOut (s : State) : Bool := outValid s && !s.host.sinkReady

/-- `out_last`: the offered byte is the last of its chunk (60_exceptions R1122). DESIGN CHOICE: it is 0 in every state but FLUSH,
where the spec gives it no value (assumption log 16). -/
def outLast (s : State) : Bool := outValid s && s.win.flushed + 1 == s.win.size

/-- `out_byte` while FLUSH runs (60_exceptions R1122); outside FLUSH it stays at its reset value 0 (assumption log 16). -/
def outByte (s : State) : Byte :=
  if outValid s then (s.win.mem.read (s.win.flushed % Config.windowSize)).getD 0 else 0

/-- The value of register STATUS (10_state R140), given whether the current step holds on input. -/
def statusWord (waitIn : Bool) (s : State) : BitVec 64 :=
  s.fsm.state.code.setWidth 64
    ||| (BitVec.ofBool (doneFlag s)).setWidth 64 <<< 5
    ||| (BitVec.ofBool (errorFlag s)).setWidth 64 <<< 6
    ||| (BitVec.ofBool waitIn).setWidth 64 <<< 7
    ||| (BitVec.ofBool (waitOut s)).setWidth 64 <<< 8
    ||| s.err.kind.code.setWidth 64 <<< 9
    ||| s.fsm.bfinalR.setWidth 64 <<< 13
    ||| s.fsm.btypeR.setWidth 64 <<< 14

end Sys2Proof.Machine
end

