-- ==== Sys2Proof/Machine/Huffman.lean ====
section
/-! DEFINITION. The canonical Huffman table builder and decoder (42_huffman R600-R610). -/

namespace Sys2Proof.Machine

/-- A Huffman table: its codewords, in symbol order (42_huffman R600). -/
abbrev Table := List CodeEntry

/-- `bl_count[L]` (42_huffman R602); length 0 is not counted (R603). -/
def blCount (lens : List CodeLen) (L : Nat) : Nat :=
  if L = 0 then 0 else lens.countP fun l => l.toNat == L

/-- `next_code[L]` before step 3, from `next_code[L]` of the first length on (42_huffman R604): `c` is `next_code[L]`, and
`n` entries follow. -/
def nextCodesFrom (lens : List CodeLen) (c L : Nat) : (n : Nat) → List Nat
  | 0 => []
  | n + 1 => c :: nextCodesFrom lens ((c + blCount lens L) * 2) (L + 1) n

/-- `next_code[0..15]` (42_huffman R604). -/
def nextCodes (lens : List CodeLen) : List Nat := nextCodesFrom lens 0 0 16

/-- `K`, the Kraft sum in units of 2^-15 (42_huffman R606). -/
def kraft (lens : List CodeLen) : Nat :=
  ((List.range Config.maxCodeLen).map fun i => blCount lens (i + 1) * 2 ^ (14 - i)).sum

/-- Steps 3 and 4 (42_huffman R605): the symbols in ascending order, each taking `next_code[L]`, which then grows by one. -/
def assignCodes (next : List Nat) (sym : Nat) : List CodeLen → Table
  | [] => []
  | l :: ls =>
    if l = 0 then assignCodes next (sym + 1) ls
    else ⟨l.toNat, next.getD l.toNat 0, sym⟩ :: assignCodes (next.set l.toNat (next.getD l.toNat 0 + 1)) (sym + 1) ls

/-- `Build(lens)` (42_huffman R601); none is OversubscribedCode (R606). -/
def build (lens : List CodeLen) : Option Table :=
  if 2 ^ Config.maxCodeLen < kraft lens then none else some (assignCodes (nextCodes lens) 0 lens)

/-- `Build(lens)` inside a step: an oversubscribed length set raises at the current offset (42_huffman R606). -/
def buildTable (lens : List CodeLen) (s : State) : Run Table :=
  match build lens with
  | some t => .ok t
  | none => .error (.raise .oversubscribedCode s.rd.offset)

/-- `T(k, v)`: the symbol with codeword `v` of length `k`. -/
def lookup (t : Table) (k v : Nat) : Option Nat :=
  (t.find? fun e => e.len == k && e.code == v).map (·.sym)

/-- Some codeword is longer than `k` and its first `k` bits equal `v`. -/
def hasLonger (t : Table) (k v : Nat) : Bool :=
  t.any fun e => decide (k < e.len) && e.code / 2 ^ (e.len - k) == v

/-- The bit-by-bit walk of `Decode` (42_huffman R610): `k` bits have been read and their value is `v`. -/
def decodeWalk (t : Table) (s : State) : (fuel k v : Nat) → Run (Nat × State)
  | 0, _, _ => .error (.raise .symbolDecodeError s.rd.offset)
  | fuel + 1, k, v => do
    ensure (k + 1) s
    let v' := 2 * v + (s.inBit (s.rd.offset + k)).toNat
    match lookup t (k + 1) v' with
    | some sym => return (sym, s.advance (k + 1))
    | none =>
      if hasLonger t (k + 1) v' then decodeWalk t s fuel (k + 1) v'
      else .error (.raise .symbolDecodeError s.rd.offset)

/-- `Decode(T)` (42_huffman R610). -/
def decodeSymbol (t : Table) (s : State) : Run (Nat × State) :=
  if t.isEmpty then .error (.raise .symbolDecodeError s.rd.offset)
  else decodeWalk t s Config.maxCodeLen 0 0

/-- The lengths that define TBL_CL (10_state R111). -/
def State.clLens (s : State) : List CodeLen := s.tbl.clLen.map (·.setWidth 4)

/-- The lengths that define TBL_LL, `LL_LEN[0..LL_N-1]` (10_state R111). -/
def State.llLens (s : State) : List CodeLen := s.tbl.llLen.take s.tbl.llN.toNat

/-- The lengths that define TBL_D, `D_LEN[0..D_N-1]` (10_state R111). -/
def State.dLens (s : State) : List CodeLen := s.tbl.dLen.take s.tbl.dN.toNat

/-- The lengths of a named table. -/
def State.tableLens (s : State) : TableSel → List CodeLen
  | .cl => s.clLens
  | .ll => s.llLens
  | .d => s.dLens

/-- `Decode` against the table a length set defines. No table exists for an oversubscribed set (42_huffman R606), and the
FSM never decodes with one; a DECODE command that names one raises as its construction does (assumption log 13). -/
def decodeWith (lens : List CodeLen) (s : State) : Run (Nat × State) := do
  let t ← buildTable lens s
  decodeSymbol t s

/-- The length of a symbol's codeword, 0 where it has none (42_huffman R600). -/
def codeLength (lens : List CodeLen) (sym : Nat) : Nat := (lens.getD sym 0).toNat

/-- The codeword of a symbol as a bit string in stream order (42_huffman R605, 20_memory R212); none where it has none. -/
def codewordBits (lens : List CodeLen) (sym : Nat) : Option Bits :=
  match build lens with
  | none => none
  | some t => (t.find? fun e => e.sym == sym).map fun e => codeBits e.len e.code

end Sys2Proof.Machine
end

