-- ==== Sys2Proof/Machine/Operands.lean ====
section
/-! DEFINITION. The operands: the constant tables (10_state R112), how the word of each format is read from the stream
(30_encoding R300-R306), and the extra bits that follow a codeword (R310, R311). -/

namespace Sys2Proof.Machine

/-- The length table, (extra, base) of symbols 257 to 285 (45_body_symbols R904, R910-R938). -/
def lengthTable : List (Nat × Nat) :=
  [(0, 3), (0, 4), (0, 5), (0, 6), (0, 7), (0, 8), (0, 9), (0, 10), (1, 11), (1, 13), (1, 15), (1, 17), (2, 19),
   (2, 23), (2, 27), (2, 31), (3, 35), (3, 43), (3, 51), (3, 59), (4, 67), (4, 83), (4, 99), (4, 115), (5, 131),
   (5, 163), (5, 195), (5, 227), (0, 258)]

/-- The distance table, (extra, base) of symbols 0 to 29 (45_body_symbols R942, R950-R979). -/
def distTable : List (Nat × Nat) :=
  [(0, 1), (0, 2), (0, 3), (0, 4), (1, 5), (1, 7), (2, 9), (2, 13), (3, 17), (3, 25), (4, 33), (4, 49), (5, 65),
   (5, 97), (6, 129), (6, 193), (7, 257), (7, 385), (8, 513), (8, 769), (9, 1025), (9, 1537), (10, 2049), (10, 3073),
   (11, 4097), (11, 6145), (12, 8193), (12, 12289), (13, 16385), (13, 24577)]

/-- A literal/length symbol's row of the length table. -/
def lengthRow (sym : Nat) : Nat × Nat := lengthTable.getD (sym - 257) (0, 0)

/-- A distance symbol's row of the distance table. -/
def distRow (sym : Nat) : Nat × Nat := distTable.getD sym (0, 0)

/-- The permutation ORDER of the code-length code lengths (44_code_lengths R811). -/
def order : List Nat := [16, 17, 18, 0, 8, 7, 9, 6, 10, 5, 11, 4, 12, 3, 13, 2, 14, 1, 15]

/-- FIXED_LL (43_block_fsm R730). -/
def fixedLl : List CodeLen :=
  List.replicate 144 8 ++ List.replicate 112 9 ++ List.replicate 24 7 ++ List.replicate 8 8

/-- FIXED_D (43_block_fsm R730). -/
def fixedD : List CodeLen := List.replicate 32 5

/-! ## Reading the word of a format -/

/-- The operand port: that of the command at the head of the queue; a syntax element has none. -/
def State.port (s : State) : Operand :=
  match s.host.commands with
  | [] => .zero
  | c :: _ => c.port

/-- Read the word of a format at the cursor, in the order of the pseudocode of the step that reads it. A symbol's word is
the decoded symbol, not its codeword (R346); a command's word is its operation code. -/
def readWord (f : Format) (s : State) : Run Nat :=
  match f with
  | .zlibHdr16 => do
    let (cmf, t) ← takeField 8 s
    let (flg, _) ← takeField 8 t
    return cmf * 256 + flg
  | .blockHdr3 => do
    let (bfinal, t) ← takeField 1 s
    let (btype, _) ← takeField 2 t
    return bfinal + 2 * btype
  | .storedHdr32 => do
    let t ← align s
    let (len, t) ← takeField 16 t
    let (nlen, _) ← takeField 16 t
    return len + 65536 * nlen
  | .byte8 => do
    let (b, _) ← takeField 8 s
    return b
  | .dynHdr14 => do
    let (hlit, t) ← takeField 5 s
    let (hdist, t) ← takeField 5 t
    let (hclen, _) ← takeField 4 t
    return hlit + 32 * hdist + 1024 * hclen
  | .cll3 => do
    let (len, _) ← takeField 3 s
    return len
  | .clSym5 => do
    let (sym, _) ← decodeWith s.clLens s
    return sym
  | .llSym9 => do
    let (sym, _) ← decodeWith s.llLens s
    return sym
  | .dSym5 => do
    let (sym, _) ← decodeWith s.dLens s
    return sym
  | .cmd4 =>
    match s.host.commands with
    | [] => .error (.fault .noSuchSymbol)
    | c :: _ => .ok c.op.toNat

/-! ## Past a codeword, and the extra bits after it -/

/-- Past the TBL_CL codeword of a symbol. -/
def pastCl (sym : Nat) (s : State) : State := s.advance (codeLength s.clLens sym)

/-- Past the TBL_LL codeword of a symbol. -/
def pastLl (sym : Nat) (s : State) : State := s.advance (codeLength s.llLens sym)

/-- Past the TBL_D codeword of a symbol. -/
def pastD (sym : Nat) (s : State) : State := s.advance (codeLength s.dLens sym)

/-- `base + TakeField(extra)` for a row (extra, base) (30_encoding R310, R311). -/
def takeExtra (row : Nat × Nat) (s : State) : Run (Nat × State) := do
  let (v, t) ← takeField row.1 s
  return (row.2 + v, t)

/-! ## The code-length sequence -/

/-- `total` of DYN_LENS (44_code_lengths R814). -/
def totalLengths (s : State) : Nat := s.fsm.hlitR.toNat + 257 + s.fsm.hdistR.toNat + 1

/-- `l[i .. i+r-1] <- v`. -/
def setRun (l : List CodeLen) (i r : Nat) (v : CodeLen) : List CodeLen :=
  l.take i ++ List.replicate r v ++ l.drop (i + r)

/-- `LENS[LENS_N - 1]` (44_code_lengths R821). -/
def previousLength (s : State) : CodeLen := s.fsm.lens.getD (s.fsm.lensN.toNat - 1) 0

/-- Write a run of `r` lengths `v`, the tail of the repeat symbols (44_code_lengths R821-R823, R825). -/
def repeatLength (r : Nat) (v : CodeLen) (s : State) : Run State :=
  if totalLengths s < s.fsm.lensN.toNat + r then .error (.raise .invalidCodeLengthCount s.rd.offset)
  else .ok { s with
    fsm.lens := setRun s.fsm.lens s.fsm.lensN.toNat r v,
    fsm.lensN := s.fsm.lensN + BitVec.ofNat 9 r,
    fsm.state := .dynLens }

end Sys2Proof.Machine
end

