-- ==== Sys2Proof/Machine/CodeLengths.lean ====
section
/-! DEFINITION. The meanings of the DYNAMIC header elements and the code-length symbols (44_code_lengths R810-R825). -/

namespace Sys2Proof.Machine

/-- DYN_HEADER (R810). -/
def execDynHeader (hlit hdist : BitVec 5) (hclen : BitVec 4) (s : State) : Host.Outcome State Fault Refusal :=
  settle s (.ok { s.advance 14 with
    fsm.hlitR := hlit, fsm.hdistR := hdist, fsm.hclenR := hclen,
    tbl.clLen := List.replicate Config.clAlphabet 0,
    fsm.cllIdx := 0, fsm.lensN := 0, fsm.state := .dynCll })

/-- CLL (R812): the length goes to the symbol the permutation names. -/
def execCll (len : BitVec 3) (s : State) : Host.Outcome State Fault Refusal :=
  settle s (
    match order[s.fsm.cllIdx.toNat]? with
    | none => .error (.fault .arrayIndex)
    | some sym =>
      let idx := s.fsm.cllIdx + 1
      .ok { s.advance 3 with
        tbl.clLen := s.tbl.clLen.set sym len,
        fsm.cllIdx := idx,
        fsm.state := if idx.toNat = s.fsm.hclenR.toNat + 4 then .dynClBuild else .dynCll })

/-- CL_LIT c (R820). -/
def execClLit (c : BitVec 4) (s : State) : Host.Outcome State Fault Refusal :=
  settle s (
    if s.fsm.lensN.toNat < Config.lensCapacity then
      .ok { pastCl c.toNat s with
        fsm.lens := s.fsm.lens.set s.fsm.lensN.toNat c,
        fsm.lensN := s.fsm.lensN + 1,
        fsm.state := .dynLens }
    else .error (.fault .arrayIndex))

/-- REP16 (R821): RepeatWithoutPrevious is checked before the extra bits are read. -/
def execRep16 (s : State) : Host.Outcome State Fault Refusal :=
  settle s (
    let t := pastCl 16 s
    if t.fsm.lensN = 0 then .error (.raise .repeatWithoutPrevious t.rd.offset)
    else do
      let (r, t) ← takeExtra (2, 3) t
      repeatLength r (previousLength t) t)

/-- ZERO17 (R822). -/
def execZero17 (s : State) : Host.Outcome State Fault Refusal :=
  settle s (do
    let (r, t) ← takeExtra (3, 3) (pastCl 17 s)
    repeatLength r 0 t)

/-- ZERO18 (R823). -/
def execZero18 (s : State) : Host.Outcome State Fault Refusal :=
  settle s (do
    let (r, t) ← takeExtra (7, 11) (pastCl 18 s)
    repeatLength r 0 t)

/-- A code-length symbol above 18 (R824): raised after its codeword. -/
def clInvalid (sym : Nat) (s : State) : Host.Outcome State Fault Refusal :=
  settle s (.error (.raise .invalidSequenceSymbol (pastCl sym s).rd.offset))

/-- CL_INVALID, symbol 19 (R824). -/
def execClInvalid19 (s : State) : Host.Outcome State Fault Refusal := clInvalid 19 s

/-- CL_INVALID, symbols 20 to 23 (R824). -/
def execClInvalid20 (low : BitVec 2) (s : State) : Host.Outcome State Fault Refusal := clInvalid (20 + low.toNat) s

/-- CL_INVALID, symbols 24 to 31 (R824). -/
def execClInvalid24 (low : BitVec 3) (s : State) : Host.Outcome State Fault Refusal := clInvalid (24 + low.toNat) s

end Sys2Proof.Machine
end

