-- ==== Sys2Proof/WellFormed.lean ====
section
/-! DEFINITION. Which terms of the syntax are instructions: the operand ranges the spec gives the commands. Every other
operand has its width in its type. -/

namespace Sys2Proof

/-- The legal width operand of a bit-reader command, 0 to 16 (40_bitreader R400). -/
def legalWidth (n : Nat) : Bool := decide (n ≤ 16)

/-- The legal pattern of STARTS_WITH, 1 to 16 bits (40_bitreader R400, R416). -/
def legalPattern (p : Bits) : Bool := decide (1 ≤ p.length ∧ p.length ≤ 16)

/-- The legal distance of APPEND_BACKREF, 1 to 32768 (41_history_window R502). -/
def legalDistance (d : Nat) : Bool := decide (1 ≤ d ∧ d ≤ Config.windowSize)

/-- The legal length array of BUILD, at most 288 entries (42_huffman R601). -/
def legalLens (lens : List CodeLen) : Bool := decide (lens.length ≤ Config.llAlphabet)

/-- The instruction's operands are in their legal ranges. LAST_N and WIN_READ take any natural: a range error of theirs is
an answer of the window (41_history_window R503, R504), no ill-formed command. -/
def Instr.wf : Instr → Bool
  | .cmdTakeField n => legalWidth n
  | .cmdTakeCode n => legalWidth n
  | .cmdPeekField n => legalWidth n
  | .cmdPeekCode n => legalWidth n
  | .cmdDiscard n => legalWidth n
  | .cmdHasBits n => legalWidth n
  | .cmdStartsWith p => legalPattern p
  | .cmdAppendBackref d => legalDistance d
  | .cmdBuild lens => legalLens lens
  | _ => true

end Sys2Proof
end

