-- ==== Sys2Proof/Machine/Commands.lean ====
section
/-! DEFINITION. The meanings of the internal operations as commands of the command stream (30_encoding R370, R371;
40_bitreader R410-R417; 41_history_window R501-R504; 42_huffman R601, R610). A command acts on its sub-block, puts its answer
on the result port and leaves the command queue; the FSM's own registers stay (assumption log 10). -/

namespace Sys2Proof.Machine

/-- The command at the head of the queue has been taken. -/
def popCommand (s : State) : State := { s with host.commands := s.host.commands.tail }

/-- A command completes: its answer goes to the result port. -/
def answer (r : Response) (s : State) : State := { popCommand s with host.response := r }

/-- How a command that began in `s` ends. A held command stays pending and is tried again; one that raises has been taken. -/
def settleCommand (s : State) (r : Run State) : Host.Outcome State Fault Refusal :=
  match r with
  | .error (.raise k o) => .next (takeFault k o (popCommand s))
  | r => settle s r

/-- An operand outside its legal range is refused (R400, R502, R601). -/
def checked (legal : Bool) (r : Run State) : Run State :=
  if legal then r else .error (.refuse .illegalOperand)

/-- CMD_TAKE_FIELD n (R410). -/
def execCmdTakeField (n : Nat) (s : State) : Host.Outcome State Fault Refusal :=
  settleCommand s (checked (legalWidth n) do
    let (v, t) ← takeField n s
    return answer (.value v) t)

/-- CMD_TAKE_CODE n (R411). -/
def execCmdTakeCode (n : Nat) (s : State) : Host.Outcome State Fault Refusal :=
  settleCommand s (checked (legalWidth n) do
    let (v, t) ← takeCode n s
    return answer (.value v) t)

/-- CMD_PEEK_FIELD n (R412). -/
def execCmdPeekField (n : Nat) (s : State) : Host.Outcome State Fault Refusal :=
  settleCommand s (checked (legalWidth n) do
    let v ← peekField n s
    return answer (.value v) s)

/-- CMD_PEEK_CODE n (R413). -/
def execCmdPeekCode (n : Nat) (s : State) : Host.Outcome State Fault Refusal :=
  settleCommand s (checked (legalWidth n) do
    let v ← peekCode n s
    return answer (.value v) s)

/-- CMD_DISCARD n (R414). -/
def execCmdDiscard (n : Nat) (s : State) : Host.Outcome State Fault Refusal :=
  settleCommand s (checked (legalWidth n) do
    let t ← discard n s
    return answer .completed t)

/-- CMD_ALIGN (R415). -/
def execCmdAlign (s : State) : Host.Outcome State Fault Refusal :=
  settleCommand s (do
    let t ← align s
    return answer .completed t)

/-- CMD_STARTS_WITH p (R416). -/
def execCmdStartsWith (p : Bits) (s : State) : Host.Outcome State Fault Refusal :=
  settleCommand s (checked (legalPattern p) do
    let b ← startsWith p s
    return answer (.flag b) s)

/-- CMD_HAS_BITS n (R417). -/
def execCmdHasBits (n : Nat) (s : State) : Host.Outcome State Fault Refusal :=
  settleCommand s (checked (legalWidth n) do
    let b ← hasBits n s
    return answer (.flag b) s)

/-- CMD_APPEND_LITERAL b (R501): Append does not flush. -/
def execCmdAppendLiteral (b : BitVec 8) (s : State) : Host.Outcome State Fault Refusal :=
  settleCommand s (.ok (answer .completed (append b s)))

/-- CMD_APPEND_BACKREF d (R502). -/
def execCmdAppendBackref (d : Nat) (s : State) : Host.Outcome State Fault Refusal :=
  settleCommand s (do
    let t ← appendBackref d s
    return answer .completed t)

/-- CMD_LAST_N n (R503): the range refusal is an answer of the window, not a session error (assumption log 11). -/
def execCmdLastN (n : Nat) (s : State) : Host.Outcome State Fault Refusal :=
  settleCommand s (do
    let l ← lastN n s
    return answer (match l with | some l => .bytes l | none => .rangeError) s)

/-- CMD_WIN_READ i (R504): the range refusal is an answer of the window, not a session error (assumption log 11). -/
def execCmdWinRead (i : Nat) (s : State) : Host.Outcome State Fault Refusal :=
  settleCommand s (do
    let b ← winRead i s
    return answer (match b with | some b => .byte b | none => .rangeError) s)

/-- CMD_BUILD lens (R601): the table goes to the result port (assumption log 13). -/
def execCmdBuild (lens : List CodeLen) (s : State) : Host.Outcome State Fault Refusal :=
  settleCommand s (checked (legalLens lens) do
    let t ← buildTable lens s
    return answer (.table t) s)

/-- CMD_DECODE table (R610). -/
def execCmdDecode (table : TableSel) (s : State) : Host.Outcome State Fault Refusal :=
  settleCommand s (do
    let (sym, t) ← decodeWith (s.tableLens table) s
    return answer (.symbol sym) t)

/-- CMD_RESERVED (R371): "A model refuses a command with either code". -/
def execCmdReserved (_low : BitVec 1) (s : State) : Host.Outcome State Fault Refusal :=
  settleCommand s (.error (.refuse .reservedCommand))

end Sys2Proof.Machine
end

