-- ==== Sys2Proof/Machine/Distances.lean ====
section
/-! DEFINITION. The meanings of the distance symbols (45_body_symbols R941-R980). A distance symbol takes two steps: in
DIST_SYM its codeword is decoded and SYM_R keeps it (R941); in DIST_EXTRA its row of the table and its extra bits give
DIST_R, and the distance is checked before the copy (R980). The FSM state says which step it is (assumption log 9). -/

namespace Sys2Proof.Machine

/-- Distance symbols 30 and 31 (R943): raised after the codeword. -/
def execDInvalid (low : BitVec 1) (s : State) : Host.Outcome State Fault Refusal :=
  settle s (.error (.raise .symbolDecodeError (pastD (30 + low.toNat) s).rd.offset))

/-- DIST_SYM's part of a distance symbol (R941). -/
def keepDistSymbol (sym : Nat) (s : State) : Run State :=
  .ok { pastD sym s with fsm.symR := BitVec.ofNat 9 sym, fsm.state := .distExtra }

/-- DIST_EXTRA (R980) for one symbol. -/
def readDistance (sym : Nat) (s : State) : Run State := do
  let (dist, t) ← takeExtra (distRow sym) s
  if t.win.size < dist then .error (.raise .invalidBackReference t.rd.offset)
  else return { t with
    fsm.distR := BitVec.ofNat 16 dist, fsm.copyRem := t.fsm.lengthR, fsm.state := .copy }

/-- A distance symbol, by the step it is in. -/
def distMeaning (sym : Nat) (s : State) : Host.Outcome State Fault Refusal :=
  settle s (if s.fsm.state = .distExtra then readDistance sym s else keepDistSymbol sym s)

/-- DIST_0 (R950). -/
def execDist0 (s : State) : Host.Outcome State Fault Refusal := distMeaning 0 s

/-- DIST_1 (R951). -/
def execDist1 (s : State) : Host.Outcome State Fault Refusal := distMeaning 1 s

/-- DIST_2 (R952). -/
def execDist2 (s : State) : Host.Outcome State Fault Refusal := distMeaning 2 s

/-- DIST_3 (R953). -/
def execDist3 (s : State) : Host.Outcome State Fault Refusal := distMeaning 3 s

/-- DIST_4 (R954). -/
def execDist4 (s : State) : Host.Outcome State Fault Refusal := distMeaning 4 s

/-- DIST_5 (R955). -/
def execDist5 (s : State) : Host.Outcome State Fault Refusal := distMeaning 5 s

/-- DIST_6 (R956). -/
def execDist6 (s : State) : Host.Outcome State Fault Refusal := distMeaning 6 s

/-- DIST_7 (R957). -/
def execDist7 (s : State) : Host.Outcome State Fault Refusal := distMeaning 7 s

/-- DIST_8 (R958). -/
def execDist8 (s : State) : Host.Outcome State Fault Refusal := distMeaning 8 s

/-- DIST_9 (R959). -/
def execDist9 (s : State) : Host.Outcome State Fault Refusal := distMeaning 9 s

/-- DIST_10 (R960). -/
def execDist10 (s : State) : Host.Outcome State Fault Refusal := distMeaning 10 s

/-- DIST_11 (R961). -/
def execDist11 (s : State) : Host.Outcome State Fault Refusal := distMeaning 11 s

/-- DIST_12 (R962). -/
def execDist12 (s : State) : Host.Outcome State Fault Refusal := distMeaning 12 s

/-- DIST_13 (R963). -/
def execDist13 (s : State) : Host.Outcome State Fault Refusal := distMeaning 13 s

/-- DIST_14 (R964). -/
def execDist14 (s : State) : Host.Outcome State Fault Refusal := distMeaning 14 s

/-- DIST_15 (R965). -/
def execDist15 (s : State) : Host.Outcome State Fault Refusal := distMeaning 15 s

/-- DIST_16 (R966). -/
def execDist16 (s : State) : Host.Outcome State Fault Refusal := distMeaning 16 s

/-- DIST_17 (R967). -/
def execDist17 (s : State) : Host.Outcome State Fault Refusal := distMeaning 17 s

/-- DIST_18 (R968). -/
def execDist18 (s : State) : Host.Outcome State Fault Refusal := distMeaning 18 s

/-- DIST_19 (R969). -/
def execDist19 (s : State) : Host.Outcome State Fault Refusal := distMeaning 19 s

/-- DIST_20 (R970). -/
def execDist20 (s : State) : Host.Outcome State Fault Refusal := distMeaning 20 s

/-- DIST_21 (R971). -/
def execDist21 (s : State) : Host.Outcome State Fault Refusal := distMeaning 21 s

/-- DIST_22 (R972). -/
def execDist22 (s : State) : Host.Outcome State Fault Refusal := distMeaning 22 s

/-- DIST_23 (R973). -/
def execDist23 (s : State) : Host.Outcome State Fault Refusal := distMeaning 23 s

/-- DIST_24 (R974). -/
def execDist24 (s : State) : Host.Outcome State Fault Refusal := distMeaning 24 s

/-- DIST_25 (R975). -/
def execDist25 (s : State) : Host.Outcome State Fault Refusal := distMeaning 25 s

/-- DIST_26 (R976). -/
def execDist26 (s : State) : Host.Outcome State Fault Refusal := distMeaning 26 s

/-- DIST_27 (R977). -/
def execDist27 (s : State) : Host.Outcome State Fault Refusal := distMeaning 27 s

/-- DIST_28 (R978). -/
def execDist28 (s : State) : Host.Outcome State Fault Refusal := distMeaning 28 s

/-- DIST_29 (R979). -/
def execDist29 (s : State) : Host.Outcome State Fault Refusal := distMeaning 29 s

end Sys2Proof.Machine
end

