-- ==== Sys2Proof/Machine/Headers.lean ====
section
/-! DEFINITION. The meanings of the zlib header, the block headers and the STORED elements (43_block_fsm R711-R721). Each
runs on the state before its step: its word stands at the cursor and has been fetched, so it moves the cursor past it
(assumption log 19). -/

namespace Sys2Proof.Machine

/-- ZLIB_HEADER (R711): only the mod-31 check is made, on `CMF·256 + FLG` (20_memory R213). -/
def execZlibHeader (cmf flg : BitVec 8) (s : State) : Host.Outcome State Fault Refusal :=
  settle s (
    let t := s.advance 16
    if (cmf.toNat * 256 + flg.toNat) % 31 ≠ 0 then .error (.raise .invalidZlibHeader t.rd.offset)
    else .ok { t with fsm.state := .hdr })

/-- The block header of HDR (R712) for a valid BTYPE. -/
def blockHeader (bfinal : BitVec 1) (btype : BitVec 2) (next : FsmState) (s : State) : State :=
  { s.advance 3 with fsm.bfinalR := bfinal, fsm.btypeR := btype, fsm.state := next }

/-- BLOCK_STORED (R712). -/
def execBlockStored (bfinal : BitVec 1) (s : State) : Host.Outcome State Fault Refusal :=
  settle s (.ok (blockHeader bfinal 0 .storedHdr s))

/-- BLOCK_FIXED (R712). -/
def execBlockFixed (bfinal : BitVec 1) (s : State) : Host.Outcome State Fault Refusal :=
  settle s (.ok (blockHeader bfinal 1 .fixedSetup s))

/-- BLOCK_DYNAMIC (R712). -/
def execBlockDynamic (bfinal : BitVec 1) (s : State) : Host.Outcome State Fault Refusal :=
  settle s (.ok (blockHeader bfinal 2 .dynHdr s))

/-- BLOCK_INVALID (R330, R712): BFINAL_R and BTYPE_R keep the previous block's values, because the step raises. -/
def execBlockInvalid (_bfinal : BitVec 1) (s : State) : Host.Outcome State Fault Refusal :=
  settle s (.error (.raise .invalidBlockType (s.advance 3).rd.offset))

/-- STORED_HEADER (R720), after the padding bits up to the byte boundary. -/
def execStoredHeader (len nlen : BitVec 16) (s : State) : Host.Outcome State Fault Refusal :=
  settle s (
    let t := s.advance (alignPad s + 32)
    if len.toNat + nlen.toNat ≠ 0xFFFF then .error (.raise .uncompressedLengthMismatch t.rd.offset)
    else .ok { t with fsm.storedRem := len, fsm.state := if len = 0 then .blockEnd else .storedCopy })

/-- STORED_BYTE (R721). -/
def execStoredByte (b : BitVec 8) (s : State) : Host.Outcome State Fault Refusal :=
  settle s (
    let rem := s.fsm.storedRem - 1
    let t := append b (s.advance 8)
    .ok (flushCheck (if rem = 0 then .blockEnd else .storedCopy) { t with fsm.storedRem := rem }))

end Sys2Proof.Machine
end

