-- ==== Sys2Proof/Machine/Lengths.lean ====
section
/-! DEFINITION. The meanings of the literal/length symbols (45_body_symbols R900-R940). A length symbol takes two steps: in
BODY_SYM its codeword is decoded and SYM_R keeps it (R900, R904); in LEN_EXTRA its row of the table and its extra bits give
LENGTH_R (R940). The FSM state says which step it is (assumption log 9). -/

namespace Sys2Proof.Machine

/-- LIT b (R901). -/
def execLit (b : BitVec 8) (s : State) : Host.Outcome State Fault Refusal :=
  settle s (.ok (flushCheck .bodySym (append b (pastLl b.toNat s))))

/-- EOB (R902). -/
def execEob (s : State) : Host.Outcome State Fault Refusal :=
  settle s (.ok { pastLl 256 s with fsm.state := .blockEnd })

/-- Literal/length symbols 286 and 287 (R903): raised after the codeword. -/
def execLlInvalid (low : BitVec 1) (s : State) : Host.Outcome State Fault Refusal :=
  settle s (.error (.raise .symbolDecodeError (pastLl (286 + low.toNat) s).rd.offset))

/-- BODY_SYM's part of a length symbol (R900). -/
def keepLengthSymbol (sym : Nat) (s : State) : Run State :=
  .ok { pastLl sym s with fsm.symR := BitVec.ofNat 9 sym, fsm.state := .lenExtra }

/-- LEN_EXTRA (R940) for one symbol. -/
def readLength (sym : Nat) (s : State) : Run State := do
  let (len, t) ← takeExtra (lengthRow sym) s
  return { t with fsm.lengthR := BitVec.ofNat 9 len, fsm.state := .distSym }

/-- A length symbol, by the step it is in. -/
def lengthMeaning (sym : Nat) (s : State) : Host.Outcome State Fault Refusal :=
  settle s (if s.fsm.state = .lenExtra then readLength sym s else keepLengthSymbol sym s)

/-- LEN_257 (R910). -/
def execLen257 (s : State) : Host.Outcome State Fault Refusal := lengthMeaning 257 s

/-- LEN_258 (R911). -/
def execLen258 (s : State) : Host.Outcome State Fault Refusal := lengthMeaning 258 s

/-- LEN_259 (R912). -/
def execLen259 (s : State) : Host.Outcome State Fault Refusal := lengthMeaning 259 s

/-- LEN_260 (R913). -/
def execLen260 (s : State) : Host.Outcome State Fault Refusal := lengthMeaning 260 s

/-- LEN_261 (R914). -/
def execLen261 (s : State) : Host.Outcome State Fault Refusal := lengthMeaning 261 s

/-- LEN_262 (R915). -/
def execLen262 (s : State) : Host.Outcome State Fault Refusal := lengthMeaning 262 s

/-- LEN_263 (R916). -/
def execLen263 (s : State) : Host.Outcome State Fault Refusal := lengthMeaning 263 s

/-- LEN_264 (R917). -/
def execLen264 (s : State) : Host.Outcome State Fault Refusal := lengthMeaning 264 s

/-- LEN_265 (R918). -/
def execLen265 (s : State) : Host.Outcome State Fault Refusal := lengthMeaning 265 s

/-- LEN_266 (R919). -/
def execLen266 (s : State) : Host.Outcome State Fault Refusal := lengthMeaning 266 s

/-- LEN_267 (R920). -/
def execLen267 (s : State) : Host.Outcome State Fault Refusal := lengthMeaning 267 s

/-- LEN_268 (R921). -/
def execLen268 (s : State) : Host.Outcome State Fault Refusal := lengthMeaning 268 s

/-- LEN_269 (R922). -/
def execLen269 (s : State) : Host.Outcome State Fault Refusal := lengthMeaning 269 s

/-- LEN_270 (R923). -/
def execLen270 (s : State) : Host.Outcome State Fault Refusal := lengthMeaning 270 s

/-- LEN_271 (R924). -/
def execLen271 (s : State) : Host.Outcome State Fault Refusal := lengthMeaning 271 s

/-- LEN_272 (R925). -/
def execLen272 (s : State) : Host.Outcome State Fault Refusal := lengthMeaning 272 s

/-- LEN_273 (R926). -/
def execLen273 (s : State) : Host.Outcome State Fault Refusal := lengthMeaning 273 s

/-- LEN_274 (R927). -/
def execLen274 (s : State) : Host.Outcome State Fault Refusal := lengthMeaning 274 s

/-- LEN_275 (R928). -/
def execLen275 (s : State) : Host.Outcome State Fault Refusal := lengthMeaning 275 s

/-- LEN_276 (R929). -/
def execLen276 (s : State) : Host.Outcome State Fault Refusal := lengthMeaning 276 s

/-- LEN_277 (R930). -/
def execLen277 (s : State) : Host.Outcome State Fault Refusal := lengthMeaning 277 s

/-- LEN_278 (R931). -/
def execLen278 (s : State) : Host.Outcome State Fault Refusal := lengthMeaning 278 s

/-- LEN_279 (R932). -/
def execLen279 (s : State) : Host.Outcome State Fault Refusal := lengthMeaning 279 s

/-- LEN_280 (R933). -/
def execLen280 (s : State) : Host.Outcome State Fault Refusal := lengthMeaning 280 s

/-- LEN_281 (R934). -/
def execLen281 (s : State) : Host.Outcome State Fault Refusal := lengthMeaning 281 s

/-- LEN_282 (R935). -/
def execLen282 (s : State) : Host.Outcome State Fault Refusal := lengthMeaning 282 s

/-- LEN_283 (R936). -/
def execLen283 (s : State) : Host.Outcome State Fault Refusal := lengthMeaning 283 s

/-- LEN_284 (R937). -/
def execLen284 (s : State) : Host.Outcome State Fault Refusal := lengthMeaning 284 s

/-- LEN_285 (R938). -/
def execLen285 (s : State) : Host.Outcome State Fault Refusal := lengthMeaning 285 s

end Sys2Proof.Machine
end

