-- ==== Sys2Proof/Machine/Fetch.lean ====
section
/-! DEFINITION. Fetching: which element the machine reads next, and placing one for it to read. The analogue of the program
counter is the pair (`state`, `offset`): "`state` says which syntax element is decoded there" (10_state R135). -/

namespace Sys2Proof.Machine

/-- The format that the FSM state reads (10_state R120; 30_encoding R346); none where the step reads no element. The step of
DYN_LENS that finds LENS_N = total reads no bits (44_code_lengths R814). -/
def streamFormat (s : State) : Option Format :=
  match s.fsm.state with
  | .zhdr => some .zlibHdr16
  | .hdr => some .blockHdr3
  | .storedHdr => some .storedHdr32
  | .storedCopy => some .byte8
  | .dynHdr => some .dynHdr14
  | .dynCll => some .cll3
  | .dynLens => if s.fsm.lensN.toNat = totalLengths s then none else some .clSym5
  | .bodySym => some .llSym9
  | .distSym => some .dSym5
  | .idle | .fixedSetup | .dynClBuild | .dynBuild | .lenExtra | .distExtra | .copy | .flush | .blockEnd
  | .done | .error => none

/-- The instruction a word stands for. A byte operand above 255 is an illegal operand (assumption log 12); no other word that
`readWord` answers is rejected in a run (assumption log 17). -/
def instrOf (f : Format) (w : Nat) (s : State) : Run Instr :=
  match decode f w s.port with
  | .ok i => .ok i
  | .error (.operandTooWide _) => .error (.refuse .illegalOperand)
  | .error (.noSuchSymbol _) => .error (.fault .noSuchSymbol)
  | .error (.wordTooWide _ _) => .error (.fault .noSuchSymbol)

/-- Read a word at the cursor and decode it. -/
def fetch (f : Format) (s : State) : Run Instr := do
  let w ← readWord f s
  instrOf f w s

/-- The length symbol that SYM_R keeps for LEN_EXTRA (45_body_symbols R900, R940). -/
def fetchLength (s : State) : Run Instr :=
  if 257 ≤ s.fsm.symR.toNat ∧ s.fsm.symR.toNat ≤ 285 then instrOf .llSym9 s.fsm.symR.toNat s
  else .error (.fault .symbolRegister)

/-- The distance symbol that SYM_R keeps for DIST_EXTRA (45_body_symbols R941, R980). -/
def fetchDistance (s : State) : Run Instr :=
  if s.fsm.symR.toNat ≤ 29 then instrOf .dSym5 s.fsm.symR.toNat s
  else .error (.fault .symbolRegister)

/-- The FSM is in a state in which no step runs until reset (43_block_fsm R743, 60_exceptions R1110). -/
def sessionOver (s : State) : Bool := s.fsm.state == .done || s.fsm.state == .error

/-- What the next step of the core executes: none where the step is one of the FSM's internal steps, which read no element;
else the fetch. Nothing runs in DONE and ERROR; a pending command of the command stream comes before the FSM's own step
(assumption log 10). -/
def nextElement (s : State) : Option (Run Instr) :=
  if sessionOver s then none
  else if s.host.commands ≠ [] then some (fetch .cmd4 s)
  else
    match s.fsm.state with
    | .lenExtra => some (fetchLength s)
    | .distExtra => some (fetchDistance s)
    | .idle | .zhdr | .hdr | .storedHdr | .storedCopy | .fixedSetup | .dynHdr | .dynCll | .dynClBuild | .dynLens | .dynBuild
    | .bodySym | .distSym | .copy | .flush | .blockEnd | .done | .error => (streamFormat s).map fun f => fetch f s

/-! ## Placing an element (assumption log 7) -/

/-- The FSM state that reads a format. A command is read in any state; IDLE is taken. -/
def readingState : Format → FsmState
  | .zlibHdr16 => .zhdr
  | .blockHdr3 => .hdr
  | .storedHdr32 => .storedHdr
  | .byte8 => .storedCopy
  | .dynHdr14 => .dynHdr
  | .cll3 => .dynCll
  | .clSym5 => .dynLens
  | .llSym9 => .bodySym
  | .dSym5 => .distSym
  | .cmd4 => .idle

/-- The lengths of a table in which one symbol has the one-bit codeword '0' (42_huffman R603, R605). -/
def oneSymbol (n sym : Nat) : List CodeLen := (List.replicate n 0).set sym 1

/-- The bytes of a word in the order the input delivers them, zero bytes following. The header bytes of ZLIB_HDR16 come first
byte most significant (20_memory R213); every other field is least significant first (R211); a symbol's codeword in its
one-symbol table is '0'. -/
def wordBytes (f : Format) (w : Nat) : List Byte :=
  match f with
  | .zlibHdr16 => [BitVec.ofNat 8 (w / 256), BitVec.ofNat 8 w, 0]
  | .storedHdr32 | .byte8 | .blockHdr3 | .dynHdr14 | .cll3 =>
    [BitVec.ofNat 8 w, BitVec.ofNat 8 (w / 256), BitVec.ofNat 8 (w / 65536), BitVec.ofNat 8 (w / 16777216), 0]
  | .clSym5 | .llSym9 | .dSym5 | .cmd4 => [0, 0, 0]

/-- The state with one element placed where the next step fetches it: the host has no other action, the input holds the
element's bits, the FSM state reads its format, and a symbol's table gives it a codeword. -/
def placeWord (f : Format) (w : Nat) (s : State) : State :=
  let bytes := wordBytes f w
  let t : State := { s with
    host.actions := [],
    host.commands := if f = .cmd4 then [⟨BitVec.ofNat 4 w, .zero⟩] else [],
    rd.inbuf := bytes, rd.readbits := 8 * bytes.length, rd.offset := 0,
    fsm.state := readingState f }
  match f with
  | .clSym5 => { t with
      tbl.clLen := (oneSymbol Config.clAlphabet w).map (·.setWidth 3),
      fsm.lensN := if t.fsm.lensN.toNat = totalLengths t then 0 else t.fsm.lensN }
  | .llSym9 => { t with tbl.llLen := oneSymbol Config.llAlphabet w, tbl.llN := 288 }
  | .dSym5 => { t with tbl.dLen := oneSymbol Config.dAlphabet w, tbl.dN := 32 }
  | .zlibHdr16 | .storedHdr32 | .byte8 | .blockHdr3 | .dynHdr14 | .cll3 | .cmd4 => t

end Sys2Proof.Machine
end

