-- ==== Sys2Proof/Machine/Fsm.lean ====
section
/-! DEFINITION. The FSM's internal steps, which read no element of the stream: FIXED_SETUP, DYN_CLBUILD, DYN_BUILD, COPY,
FLUSH and BLOCK_END, the last step of DYN_LENS, and the states in which no step runs. -/

namespace Sys2Proof.Machine

/-- FIXED_SETUP (43_block_fsm R731). -/
def fixedSetup (s : State) : Run State := do
  let t : State := { s with tbl.llLen := fixedLl, tbl.llN := 288, tbl.dLen := fixedD, tbl.dN := 32 }
  let _ ← buildTable t.llLens t
  let _ ← buildTable t.dLens t
  return { t with fsm.state := .bodySym }

/-- DYN_CLBUILD (44_code_lengths R813). -/
def dynClBuild (s : State) : Run State := do
  let _ ← buildTable s.clLens s
  return { s with fsm.state := .dynLens }

/-- The step of DYN_LENS that finds LENS_N = total (44_code_lengths R814). -/
def dynLensEnd (s : State) : Run State := .ok { s with fsm.state := .dynBuild }

/-- The split of DYN_BUILD: LENS becomes LL_LEN and D_LEN, the rest of each array 0 (44_code_lengths R826, R840). -/
def splitLengths (s : State) : State :=
  let llN := s.fsm.hlitR.toNat + 257
  let dN := s.fsm.hdistR.toNat + 1
  { s with
    tbl.llN := BitVec.ofNat 9 llN,
    tbl.dN := BitVec.ofNat 6 dN,
    tbl.llLen := s.fsm.lens.take llN ++ List.replicate (Config.llAlphabet - llN) 0,
    tbl.dLen := (s.fsm.lens.drop llN).take dN ++ List.replicate (Config.dAlphabet - dN) 0 }

/-- DYN_BUILD (44_code_lengths R840): the literal/length set is checked first. -/
def dynBuild (s : State) : Run State := do
  let t := splitLengths s
  let _ ← buildTable t.llLens t
  let _ ← buildTable t.dLens t
  return { t with fsm.state := .bodySym }

/-- COPY (45_body_symbols R981): one byte of the match. -/
def copyByte (s : State) : Run State := do
  let t ← appendBackref s.fsm.distR.toNat s
  let rem := s.fsm.copyRem - 1
  return flushCheck (if rem = 0 then .bodySym else .copy) { t with fsm.copyRem := rem }

/-- `Emit(b, last)` and the rest of the FLUSH step (43_block_fsm R741, 41_history_window R511), once the sink accepts. -/
def emitByte (s : State) : Run State := do
  let b ← winByte s.win.flushed s
  let f := s.win.flushed + 1
  return { s with
    win.flushed := f,
    host.emitted := s.host.emitted ++ [⟨b, f == s.win.size⟩],
    fsm.state := if f = s.win.size then s.fsm.retR else .flush }

/-- FLUSH (43_block_fsm R741): held, with nothing changed, while the sink does not accept (60_exceptions R1122, R1124). -/
def flushByte (s : State) : Run State := if s.host.sinkReady then emitByte s else .ok s

/-- BLOCK_END (43_block_fsm R742). -/
def blockEnd (s : State) : Run State :=
  if 0 < s.win.size - s.win.flushed then .ok { s with fsm.retR := .blockEnd, fsm.state := .flush }
  else if s.fsm.bfinalR = 1 then .ok { s with fsm.state := .done }
  else .ok { s with fsm.state := .hdr }

/-- The internal step of the state. In IDLE (43_block_fsm R710), DONE (R743) and ERROR (60_exceptions R1110) no step runs, so
nothing changes; the states that read an element have no internal step. -/
def internalStep (s : State) : Run State :=
  match s.fsm.state with
  | .fixedSetup => fixedSetup s
  | .dynClBuild => dynClBuild s
  | .dynLens => dynLensEnd s
  | .dynBuild => dynBuild s
  | .copy => copyByte s
  | .flush => flushByte s
  | .blockEnd => blockEnd s
  | .idle | .done | .error => .ok s
  | .zhdr | .hdr | .storedHdr | .storedCopy | .dynHdr | .dynCll | .bodySym | .lenExtra | .distSym | .distExtra => .ok s

end Sys2Proof.Machine
end

