-- ==== Sys2Proof/Machine/CoreStep.lean ====
section
/-! DEFINITION. One step of the core, and the request it raises while it holds on input. -/

namespace Sys2Proof.Machine

/-- One step of the core: an internal step of the FSM, or the instruction that the fetch answers (43_block_fsm R700). A fetch
that holds or raises ends the step. -/
def coreStep (s : State) : Host.Outcome State Fault Refusal :=
  match nextElement s with
  | none => settle s (internalStep s)
  | some (.ok i) => exec i s
  | some (.error e) => settle s (.error e)

/-- The state as a core sees it whose host has nothing to give but the end of the input. -/
def withoutInput (s : State) : State :=
  { s with host.actions := [], host.source := [], host.sourceEnds := true }

/-- `in_req`: the current step holds on input (60_exceptions R1120, 43_block_fsm R701). A step holds exactly when it would take
the end of the input, were that all the host had to give (40_bitreader R401, R405). With a command pending the current step is
the command's, in IDLE and FLUSH too (DESIGN CHOICE, assumption log 10). -/
def inReq (s : State) : Bool :=
  match coreStep (withoutInput s) with
  | .next t => !s.rd.srcEnd && t.rd.srcEnd
  | .fault _ => false
  | .refused _ => false

end Sys2Proof.Machine
end

