-- ==== Sys2Proof/Machine/HostPort.lean ====
section
/-! DEFINITION. What the host does to the machine between two steps of the core: register writes (10_state R140, R141), START
(43_block_fsm R710), reset (70_reset R1200), and its answers on the ports (60_exceptions R1120-R1123). -/

namespace Sys2Proof.Machine

/-- The field CTRL.ZLIB_EN is written (R140, R141): in IDLE only. -/
def writeZlib (b : Bool) (s : State) : State :=
  if s.fsm.state = .idle then { s with cfg.zlib := b } else s

/-- The field CTRL.START is written with 1 (R140, R710): it matters in IDLE only, and cfg_zlib stays. -/
def startSession (s : State) : State :=
  if s.fsm.state = .idle then { s with fsm.state := if s.cfg.zlib then .zhdr else .hdr } else s

/-- CTRL is written as a whole register (R140). DESIGN CHOICE (assumption log 14): the write carries both fields, so bit 1 sets
ZLIB_EN whether or not bit 0 is set, and a value with bit 1 clear clears cfg_zlib; ZLIB_EN takes effect before START. A host
that means one field alone uses `setZlib` or `start`. -/
def writeCtrl (v : BitVec 64) (s : State) : State :=
  let t := writeZlib (v.getLsbD 1) s
  if v.getLsbD 0 then startSession t else t

/-- CFG_T is written (R140, R141): in IDLE only, and a value outside 1 to 32768 is ignored. -/
def writeCfgT (v : BitVec 64) (s : State) : State :=
  let t : BitVec 16 := v.setWidth 16
  if s.fsm.state = .idle ∧ 1 ≤ t.toNat ∧ t.toNat ≤ Config.windowSize then { s with cfg.flushT := t } else s

/-- A register of the view is written (R140); the others are read-only. -/
def writeReg (r : HostReg) (v : BitVec 64) (s : State) : State :=
  match r with
  | .ctrl => writeCtrl v s
  | .cfgT => writeCfgT v s
  | .status | .errOffset | .inBits | .outBytes => s

/-- The host offers a byte (R1120). It joins the bytes the host holds, which are given in order, each once (R1123). Where a
request is pending the core takes the first of them at once, as the refill of 40_bitreader R405; where none is, or the end of
input has been signalled (R1121), nothing is taken and the host keeps the byte (assumption log 22). -/
def deliverByte (b : Byte) (s : State) : State :=
  let t : State := { s with host.source := s.host.source ++ [b] }
  if inReq s then holdInput t else t

/-- What a host action other than `pass` does. End of input may be signalled at any time (R1121). -/
def hostAction (a : HostAction) (s : State) : State :=
  match a with
  | .write r v => writeReg r v s
  | .setZlib b => writeZlib b s
  | .start => startSession s
  | .reset => applyReset s
  | .deliver b => deliverByte b s
  | .endInput => { s with rd.srcEnd := true }
  | .ready b => { s with host.sinkReady := b }
  | .issue c => { s with host.commands := s.host.commands ++ [c] }
  | .pass => s

end Sys2Proof.Machine
end

