-- ==== Sys2Proof/Machine/Step.lean ====
section
/-! DEFINITION. One step of the machine. -/

namespace Sys2Proof.Machine

/-- One step of the machine: the host's next action, if it has one (assumption log 1), else one step of the core. -/
def step (s : State) : Host.Outcome State Fault Refusal :=
  match s.host.actions with
  | [] => coreStep s
  | .pass :: rest => coreStep { s with host.actions := rest }
  | a :: rest => .next (hostAction a { s with host.actions := rest })

/-- The state with the instruction of a table word stored where the next step fetches it (assumption log 7). -/
def State.withFetchWord (s : State) (nbits w : Nat) : State :=
  match tableFormat nbits w with
  | none => s
  | some f => placeWord f w s

end Sys2Proof.Machine
end

