-- ==== Sys2Proof/Machine/Assembler.lean ====
section
/-! DEFINITION. The assembler notation of 30_encoding R360-R364: the bits each element emits, the pseudo-instructions, the
packing of a program into bytes, and the listing. It is what stream of bits stands for an element, so it also says where an
instruction's encoding stands in the input (`standsAt`). -/

namespace Sys2Proof.Machine

/-- The bits of one element of the stream at a cursor, as the input delivers them (R300, R361), without extra bits: a header
or field word least significant bit first, a symbol's codeword in the table the state holds; none where the symbol has no
codeword. A command is no part of the stream. -/
def elementBits (s : State) (e : Element) : Option Bits :=
  match e.fmt with
  | .zlibHdr16 => some (fieldBits 8 (e.word / 256) ++ fieldBits 8 e.word)
  | .blockHdr3 => some (fieldBits 3 e.word)
  | .storedHdr32 => some (List.replicate (alignPad s) false ++ fieldBits 32 e.word)
  | .byte8 => some (fieldBits 8 e.word)
  | .dynHdr14 => some (fieldBits 14 e.word)
  | .cll3 => some (fieldBits 3 e.word)
  | .clSym5 => codewordBits s.clLens e.word
  | .llSym9 => codewordBits s.llLens e.word
  | .dSym5 => codewordBits s.dLens e.word
  | .cmd4 => none

/-- The bits `p` stand at the cursor of the input buffer. -/
def bitsStand (p : Bits) (s : State) : Prop :=
  s.rd.offset + p.length ≤ s.rd.readbits ∧ bitsAt s s.rd.offset p.length = p

/-- The element stands at the cursor. The padding bits of a STORED header may hold any value (R336). -/
def standsAt (e : Element) (s : State) : Prop :=
  match e.fmt with
  | .storedHdr32 => bitsStand (fieldBits 32 e.word) (s.advance (alignPad s))
  | .zlibHdr16 | .blockHdr3 | .byte8 | .dynHdr14 | .cll3 | .clSym5 | .llSym9 | .dSym5 =>
    ∃ p, elementBits s e = some p ∧ bitsStand p s
  | .cmd4 => ∃ c rest, s.host.commands = c :: rest ∧ c.op.toNat = e.word ∧ c.port = e.port

/-! ## Programs -/

/-- A line of an assembly program (R361, R362). -/
inductive AsmLine where
  /-- ZHDR cmf, flg -/
  | zhdr (cmf flg : Byte)
  /-- BLOCK final=F type=T -/
  | block (final : BitVec 1) (type : BitVec 2)
  /-- STOREDHDR len=L nlen=N -/
  | storedHdr (len nlen : BitVec 16)
  /-- BYTE b -/
  | byte (b : Byte)
  /-- DYNHDR hlit=a hdist=b hclen=c -/
  | dynHdr (hlit hdist : BitVec 5) (hclen : BitVec 4)
  /-- CLL l0, l1, … -/
  | cll (lens : List (BitVec 3))
  /-- CL n -/
  | cl (n : BitVec 4)
  /-- REP16 r, 3 to 6 -/
  | rep16 (r : Nat)
  /-- ZERO17 r, 3 to 10 -/
  | zero17 (r : Nat)
  /-- ZERO18 r, 11 to 138 -/
  | zero18 (r : Nat)
  /-- LIT b -/
  | lit (b : Byte)
  /-- EOB -/
  | eob
  /-- LENSYM s, x -/
  | lenSym (sym x : Nat)
  /-- DISTSYM d, x -/
  | distSym (sym x : Nat)
  /-- RAWBITS '…' -/
  | rawBits (p : Bits)
  /-- MATCH len=L, dist=D (R362) -/
  | copy (len dist : Nat)
  /-- STRING "text" (R362) -/
  | string (text : List Byte)
  /-- STORED final=F "bytes" (R362) -/
  | stored (final : BitVec 1) (text : List Byte)
  deriving DecidableEq, Repr

/-- STOREDHDR without nlen: N = L xor 0xFFFF (R361). -/
def AsmLine.storedHdrOf (len : BitVec 16) : AsmLine := .storedHdr len (len ^^^ 0xFFFF)

/-- The one length symbol MATCH uses for a length (R362): 285 for 258, else the row of 257 to 284 that covers it. -/
def lengthSymbol (len : Nat) : Option Nat :=
  if len = 258 then some 285
  else (List.range' 257 28).find? fun s => (lengthRow s).2 ≤ len ∧ len < (lengthRow s).2 + 2 ^ (lengthRow s).1

/-- The one distance symbol for a distance (R362). -/
def distanceSymbol (dist : Nat) : Option Nat :=
  (List.range 30).find? fun d => (distRow d).2 ≤ dist ∧ dist < (distRow d).2 + 2 ^ (distRow d).1

/-- The assembler's state: the tables in force and the length sequence of the DYNAMIC header being written (R363). -/
structure AsmState where
  /-- the bits emitted so far -/
  bits : Bits
  ll : List CodeLen
  d : List CodeLen
  cl : List CodeLen
  /-- HLIT+257 and HDIST+1 of the DYNAMIC header, 0 outside one -/
  llN : Nat
  dN : Nat
  /-- the lengths the header's CL, REP16, ZERO17 and ZERO18 lines have written -/
  lens : List CodeLen
  deriving DecidableEq, Repr

/-- Before a program's first line. -/
def AsmState.start : AsmState := ⟨[], [], [], [], 0, 0, []⟩

/-- Append bits. -/
def AsmState.emit (p : Bits) (a : AsmState) : AsmState := { a with bits := a.bits ++ p }

/-- Append lengths to the header's sequence; when it is full it becomes the block's tables (44_code_lengths R840). DESIGN CHOICE:
while it is not full, or once a line has taken it past full, the tables in force stay those of before the header; R363 names
none there (assumption log 23). -/
def AsmState.addLens (l : List CodeLen) (a : AsmState) : AsmState :=
  let lens := a.lens ++ l
  if lens.length = a.llN + a.dN then { a with lens := lens, ll := lens.take a.llN, d := lens.drop a.llN }
  else { a with lens := lens }

/-- A codeword line followed by `e` extra bits of value `x`. -/
def AsmState.symbol (lens : List CodeLen) (sym e x : Nat) (a : AsmState) : Option AsmState :=
  if x < 2 ^ e then (codewordBits lens sym).map fun p => a.emit (p ++ fieldBits e x) else none

/-- LENSYM s, x. -/
def AsmState.lenSym (sym x : Nat) (a : AsmState) : Option AsmState :=
  if 257 ≤ sym ∧ sym ≤ 285 then a.symbol a.ll sym (lengthRow sym).1 x else none

/-- DISTSYM d, x. -/
def AsmState.distSym (sym x : Nat) (a : AsmState) : Option AsmState :=
  if sym ≤ 29 then a.symbol a.d sym (distRow sym).1 x else none

/-- STOREDHDR len, nlen: zero bits to the byte boundary first. -/
def AsmState.storedHdr (len nlen : BitVec 16) (a : AsmState) : AsmState :=
  a.emit (List.replicate ((8 - a.bits.length % 8) % 8) false ++ fieldBits 16 len.toNat ++ fieldBits 16 nlen.toNat)

/-- BLOCK: after type FIXED the fixed tables are in force (R363). DESIGN CHOICE: after any other type those of before stay in
force until a header's lengths are complete; R363 names none there (assumption log 23). -/
def AsmState.block (final : BitVec 1) (type : BitVec 2) (a : AsmState) : AsmState :=
  let a := a.emit (fieldBits 1 final.toNat ++ fieldBits 2 type.toNat)
  if type = 1 then { a with ll := fixedLl, d := fixedD } else a

/-- Several bytes, each FIELD(8). -/
def AsmState.bytes (text : List Byte) (a : AsmState) : AsmState := a.emit (text.flatMap fun b => fieldBits 8 b.toNat)

/-- One line (R361, R362). DESIGN CHOICE (assumption log 23): a CLL line emits the values it lists, whatever their number (the
spec gives hclen+4 of them); a REP16 line before any length adds zeros to the sequence (the spec defines none, and the decoder
raises on it); CL, REP16, ZERO17 and ZERO18 lines use the code-length table of the last DYNHDR and CLL lines wherever they
stand, outside a DYNAMIC header too (R363 names none there). -/
def AsmState.line (l : AsmLine) (a : AsmState) : Option AsmState :=
  match l with
  | .zhdr cmf flg => some (a.bytes [cmf, flg])
  | .block final type => some (a.block final type)
  | .storedHdr len nlen => some (a.storedHdr len nlen)
  | .byte b => some (a.bytes [b])
  | .dynHdr hlit hdist hclen =>
    some { a.emit (fieldBits 5 hlit.toNat ++ fieldBits 5 hdist.toNat ++ fieldBits 4 hclen.toNat) with
      llN := hlit.toNat + 257, dN := hdist.toNat + 1, lens := [], cl := List.replicate Config.clAlphabet 0 }
  | .cll lens =>
    some { a.emit (lens.flatMap fun l => fieldBits 3 l.toNat) with
      cl := (order.zip lens).foldl (fun c p => c.set p.1 (p.2.setWidth 4)) a.cl }
  | .cl n => (a.symbol a.cl n.toNat 0 0).map fun b => b.addLens [n]
  | .rep16 r =>
    if 3 ≤ r then (a.symbol a.cl 16 2 (r - 3)).map fun b => b.addLens (List.replicate r (b.lens.getLastD 0)) else none
  | .zero17 r => if 3 ≤ r then (a.symbol a.cl 17 3 (r - 3)).map fun b => b.addLens (List.replicate r 0) else none
  | .zero18 r => if 11 ≤ r then (a.symbol a.cl 18 7 (r - 11)).map fun b => b.addLens (List.replicate r 0) else none
  | .lit b => a.symbol a.ll b.toNat 0 0
  | .eob => a.symbol a.ll 256 0 0
  | .lenSym sym x => a.lenSym sym x
  | .distSym sym x => a.distSym sym x
  | .rawBits p => some (a.emit p)
  | .copy len dist => do
    let s ← lengthSymbol len
    let d ← distanceSymbol dist
    let a ← a.lenSym s (len - (lengthRow s).2)
    a.distSym d (dist - (distRow d).2)
  | .string text => text.foldlM (fun a b => a.symbol a.ll b.toNat 0 0) a
  | .stored final text =>
    let len : BitVec 16 := BitVec.ofNat 16 text.length
    if text.length < 65536 then some (((a.block final 0).storedHdr len (len ^^^ 0xFFFF)).bytes text) else none

/-- Pack bits into bytes: bit k into bit k mod 8 of byte k div 8, the last byte padded with 0 bits (R363). -/
def packBits : (fuel : Nat) → Bits → List Byte
  | 0, _ => []
  | _, [] => []
  | fuel + 1, b :: p => BitVec.ofNat 8 (fieldSum ((b :: p).take 8)) :: packBits fuel ((b :: p).drop 8)
where
  /-- the value of a bit string in FIELD order -/
  fieldSum : Bits → Nat
    | [] => 0
    | b :: p => b.toNat + 2 * fieldSum p

/-- The bytes of a program (R363); none where a line emits no codeword or has an operand out of range. -/
def assemble (prog : List AsmLine) : Option (List Byte) :=
  (prog.foldlM (fun (a : AsmState) l => a.line l) AsmState.start).map fun a => packBits a.bits.length a.bits

/-! ## The listing -/

/-- A natural in decimal. -/
def dec (n : Nat) : String := toString n

/-- A byte in hexadecimal, 0x and two digits. -/
def hexByte (b : Byte) : String := "0x" ++ String.ofList [(Nat.digitChar (b.toNat / 16)).toUpper, (Nat.digitChar (b.toNat % 16)).toUpper]

/-- The listing of one element at bit position `k` (R364). -/
def listElement (k : Nat) (text : String) : String := "@" ++ dec k ++ " " ++ text

/-- The listing of a literal (R364: `@3 LIT 0x48`). -/
def listLiteral (k : Nat) (b : Byte) : String := listElement k ("LIT " ++ hexByte b)

/-- The listing of a match (R364). -/
def listMatch (k len dist sym dsym : Nat) : String :=
  listElement k ("MATCH len=" ++ dec len ++ " dist=" ++ dec dist ++ " (sym " ++ dec sym ++ ", dsym " ++ dec dsym ++ ")")

end Sys2Proof.Machine
end

