-- ==== Sys2Proof/Machine/RegView.lean ====
section
/-! DEFINITION. What the host reads: the six registers of the view (10_state R140). Reading one has no side effect: each is a
function of the state. The input request is in Machine/CoreStep.lean, the other port outputs are in Machine/Flags.lean. -/

namespace Sys2Proof.Machine

/-- What a read of a register answers (R140). The counters are unbounded naturals; a 64-bit register shows their low 64 bits
(assumption log 5). CTRL.START reads 0. -/
def readReg (r : HostReg) (s : State) : BitVec 64 :=
  match r with
  | .ctrl => (BitVec.ofBool s.cfg.zlib).setWidth 64 <<< 1
  | .cfgT => s.cfg.flushT.setWidth 64
  | .status => statusWord (inReq s) s
  | .errOffset => BitVec.ofNat 64 s.err.offset
  | .inBits => BitVec.ofNat 64 s.rd.offset
  | .outBytes => BitVec.ofNat 64 s.win.size

/-- The byte offset of an error (60_exceptions R1110: "The byte offset is err_offset div 8"). -/
def errByteOffset (s : State) : Nat := s.err.offset / 8

end Sys2Proof.Machine
end

