-- ==== Sys2Proof/Safety.lean ====
section
/-! DEFINITION. What counts as a safe run: the invariants of the state, in the terms the statements use. `Sound` holds of the
storage whatever the command stream does; `Session` adds the protocol of the FSM and needs an empty command stream. -/

namespace Sys2Proof.Machine

/-- The total of bytes not yet handed to the sink, `unflushed = size − flushed` (10_state R109). -/
def unflushed (s : State) : Nat := s.win.size - s.win.flushed

/-- The state the FSM is in, or returns to from FLUSH (10_state R121). -/
def resumeState (s : State) : FsmState := if s.fsm.state = .flush then s.fsm.retR else s.fsm.state

/-- The storage is sound. -/
structure Sound (s : State) : Prop where
  /-- "equal to 8 × (number of bytes pulled)" (10_state R103) -/
  readbits : s.rd.readbits = 8 * s.rd.inbuf.length
  /-- "`offset <= readbits`" (10_state R104) -/
  cursor : s.rd.offset ≤ s.rd.readbits
  /-- the canonical form of the window's memory -/
  memory : Memory.wf s.win.mem = true
  /-- every position that is valid to address holds a byte (20_memory R201) -/
  window : ∀ j, j < s.win.size → s.win.size ≤ j + Config.windowSize →
    ∃ b, s.win.mem.read (j % Config.windowSize) = some b
  /-- the sizes of the arrays (10_state R110, R126) -/
  clLen : s.tbl.clLen.length = Config.clAlphabet
  llLen : s.tbl.llLen.length = Config.llAlphabet
  dLen : s.tbl.dLen.length = Config.dAlphabet
  lens : s.fsm.lens.length = Config.lensCapacity
  /-- cfg_T is 1 to 32768 (10_state R131, R140) -/
  threshold : 1 ≤ s.cfg.flushT.toNat ∧ s.cfg.flushT.toNat ≤ Config.windowSize

/-- The protocol of a session that no command stream disturbs. -/
structure Session (s : State) : Prop extends Sound s where
  noCommands : s.host.commands = []
  /-- and the testbench issues none -/
  noIssue : ∀ c, HostAction.issue c ∉ s.host.actions
  flushedLe : s.win.flushed ≤ s.win.size
  /-- nothing has been produced before START (70_reset R1202) -/
  idle : s.fsm.state = .idle → s.win.size = 0
  /-- a chunk is never empty and never longer than cfg_T (41_history_window R510), and FLUSH returns to one of four states -/
  flushing : s.fsm.state = .flush → 0 < unflushed s ∧ unflushed s ≤ s.cfg.flushT.toNat ∧
    (s.fsm.retR = .storedCopy ∨ s.fsm.retR = .bodySym ∨ s.fsm.retR = .copy ∨ s.fsm.retR = .blockEnd)
  /-- "at every Append, size − flushed < cfg_T ≤ 32768 holds before the write" (41_history_window R513) -/
  notFlushing : s.fsm.state ≠ .flush → unflushed s < s.cfg.flushT.toNat
  /-- "on entry flushed = size" (43_block_fsm R743) -/
  done : s.fsm.state = .done → s.win.flushed = s.win.size
  /-- DYN_CLL runs HCLEN+4 times (44_code_lengths R812) -/
  cll : s.fsm.state = .dynCll → s.fsm.cllIdx.toNat < s.fsm.hclenR.toNat + 4
  /-- the code-length sequence never exceeds total (44_code_lengths R825) -/
  sequence : s.fsm.state = .dynCll ∨ s.fsm.state = .dynClBuild ∨ s.fsm.state = .dynLens →
    s.fsm.lensN.toNat ≤ totalLengths s
  /-- TBL_CL exists while it is used (44_code_lengths R813) -/
  clTable : s.fsm.state = .dynLens → (build s.clLens).isSome
  /-- TBL_LL and TBL_D exist while a body is decoded (43_block_fsm R731, 44_code_lengths R840) -/
  bodyTables : resumeState s = .bodySym ∨ resumeState s = .lenExtra ∨ resumeState s = .distSym ∨
    resumeState s = .distExtra ∨ resumeState s = .copy → (build s.llLens).isSome ∧ (build s.dLens).isSome
  /-- a STORED body is byte-aligned and has bytes left (20_memory R221, 43_block_fsm R721) -/
  stored : resumeState s = .storedCopy → 0 < s.fsm.storedRem.toNat ∧ s.rd.offset % 8 = 0
  /-- SYM_R holds a length symbol (45_body_symbols R940) -/
  lengthSym : s.fsm.state = .lenExtra → 257 ≤ s.fsm.symR.toNat ∧ s.fsm.symR.toNat ≤ 285
  /-- LENGTH_R is 3 to 258 (10_state R129) -/
  length : s.fsm.state = .distSym ∨ s.fsm.state = .distExtra →
    3 ≤ s.fsm.lengthR.toNat ∧ s.fsm.lengthR.toNat ≤ 258
  /-- SYM_R holds a distance symbol (45_body_symbols R980) -/
  distSym : s.fsm.state = .distExtra → s.fsm.symR.toNat ≤ 29
  /-- a copy in progress: 1 to 258 bytes left, and the distance check keeps holding (45_body_symbols R981) -/
  copying : resumeState s = .copy → 1 ≤ s.fsm.copyRem.toNat ∧ s.fsm.copyRem.toNat ≤ 258 ∧
    1 ≤ s.fsm.distR.toNat ∧ s.fsm.distR.toNat ≤ Config.windowSize ∧ s.fsm.distR.toNat ≤ s.win.size
  /-- one byte has been emitted for each of the `flushed` bytes (10_state R109) -/
  emittedCount : s.host.emitted.length = s.win.flushed
  /-- and it is the byte of its position, for every position the window still holds (41_history_window R514) -/
  emittedBytes : ∀ j, j < s.win.flushed → s.win.size ≤ j + Config.windowSize →
    s.host.emitted[j]?.map OutByte.byte = s.win.mem.read (j % Config.windowSize)

/-! ## What a step leaves unchanged -/

/-- `Σ_{i<n} InBit(k+i)·2^i` (20_memory R211). -/
def FieldSum (s : State) (k n : Nat) : Nat := ∑ i ∈ Finset.range n, (s.inBit (k + i)).toNat * 2 ^ i

/-- `Σ_{i<n} InBit(k+i)·2^(n-1-i)` (20_memory R212). -/
def CodeSum (s : State) (k n : Nat) : Nat := ∑ i ∈ Finset.range n, (s.inBit (k + i)).toNat * 2 ^ (n - 1 - i)

/-- The cursor has moved on by `n` bits; the input buffer and the end flag are as before. -/
def Moved (n : Nat) (s t : State) : Prop := t.rd = { s.rd with offset := s.rd.offset + n }

/-- Every byte of the window reads as before, and its counters are as before. -/
def SameWindow (s t : State) : Prop :=
  t.win.size = s.win.size ∧ t.win.flushed = s.win.flushed ∧ ∀ a, t.win.mem.read a = s.win.mem.read a

/-- One byte has been appended, at the address `size mod 32768` (41_history_window R501); every other byte reads as before. -/
def Appended (b : Byte) (s t : State) : Prop :=
  t.win.size = s.win.size + 1 ∧ t.win.flushed = s.win.flushed ∧
  t.win.mem.read (s.win.size % Config.windowSize) = some b ∧
  ∀ a, a ≠ s.win.size % Config.windowSize → t.win.mem.read a = s.win.mem.read a

/-- The error registers, the configuration and the host's side are as before. -/
def SameOutside (s t : State) : Prop := t.err = s.err ∧ t.cfg = s.cfg ∧ t.host = s.host

/-- The FSM's registers are `f` after `FlushCheck(next)` (41_history_window R512). -/
def FlushChecked (next : FsmState) (f : FsmRegs) (t : State) : Prop :=
  (t.win.size - t.win.flushed = t.cfg.flushT.toNat → t.fsm = { f with retR := next, state := .flush }) ∧
  (t.win.size - t.win.flushed ≠ t.cfg.flushT.toNat → t.fsm = { f with state := next })

/-- FaultEntry(k, o) has been taken, and nothing else (60_exceptions R1110). -/
def Faulted (k : ErrKind) (o : Nat) (s t : State) : Prop :=
  t.err = ⟨k, o⟩ ∧ t.rd = { s.rd with offset := o } ∧ t.fsm = { s.fsm with state := .error } ∧
  SameWindow s t ∧ t.tbl = s.tbl ∧ t.cfg = s.cfg ∧ t.host = s.host

/-- A command has completed with answer `r`: it has left the queue, and everything that is not the bit reader or the window
is as before. -/
def Answered (r : Response) (s t : State) : Prop :=
  t.host = { s.host with commands := s.host.commands.tail, response := r } ∧
  t.fsm = s.fsm ∧ t.tbl = s.tbl ∧ t.err = s.err ∧ t.cfg = s.cfg

/-- The step has held on input and the host has answered, or has not (40_bitreader R405, 60_exceptions R1120, R1121, R1124):
nothing but the refill, or the end flag, or nothing at all. -/
def Held (s t : State) : Prop :=
  (∃ b rest, s.host.source = b :: rest ∧
    t = { s with rd.inbuf := s.rd.inbuf ++ [b], rd.readbits := s.rd.readbits + 8, host.source := rest }) ∨
  (s.host.source = [] ∧ s.host.sourceEnds = true ∧ t = { s with rd.srcEnd := true }) ∨
  (s.host.source = [] ∧ s.host.sourceEnds = false ∧ t = s)

/-- The host's next action is a reset. -/
def resetting (s : State) : Bool := s.host.actions.head? == some .reset

/-- The host has delivered `l` early: more input has been pulled, and nothing else differs. -/
def refilled (l : List Byte) (s : State) : State :=
  { s with rd.inbuf := s.rd.inbuf ++ l, rd.readbits := s.rd.readbits + 8 * l.length }

end Sys2Proof.Machine
end

