-- ==== Sys2Proof/Certificates/Slice0/Obligations.lean ====
section
/-! DEFINITION. The statements for the provers. Unless a statement says otherwise it holds of every state, reached or not. -/

open Sys2Proof Sys2Proof.Machine

namespace Sys2Proof.Machine

/-- The length table as 45_body_symbols R904 prints it: instruction, symbol, extra, base. -/
def lengthRows : List (Instr × Nat × Nat × Nat) :=
  [(.len257, 257, 0, 3), (.len258, 258, 0, 4), (.len259, 259, 0, 5), (.len260, 260, 0, 6), (.len261, 261, 0, 7),
   (.len262, 262, 0, 8), (.len263, 263, 0, 9), (.len264, 264, 0, 10), (.len265, 265, 1, 11), (.len266, 266, 1, 13),
   (.len267, 267, 1, 15), (.len268, 268, 1, 17), (.len269, 269, 2, 19), (.len270, 270, 2, 23), (.len271, 271, 2, 27),
   (.len272, 272, 2, 31), (.len273, 273, 3, 35), (.len274, 274, 3, 43), (.len275, 275, 3, 51), (.len276, 276, 3, 59),
   (.len277, 277, 4, 67), (.len278, 278, 4, 83), (.len279, 279, 4, 99), (.len280, 280, 4, 115), (.len281, 281, 5, 131),
   (.len282, 282, 5, 163), (.len283, 283, 5, 195), (.len284, 284, 5, 227), (.len285, 285, 0, 258)]

/-- The distance table as 45_body_symbols R942 prints it: instruction, symbol, extra, base. -/
def distanceRows : List (Instr × Nat × Nat × Nat) :=
  [(.dist0, 0, 0, 1), (.dist1, 1, 0, 2), (.dist2, 2, 0, 3), (.dist3, 3, 0, 4), (.dist4, 4, 1, 5), (.dist5, 5, 1, 7),
   (.dist6, 6, 2, 9), (.dist7, 7, 2, 13), (.dist8, 8, 3, 17), (.dist9, 9, 3, 25), (.dist10, 10, 4, 33),
   (.dist11, 11, 4, 49), (.dist12, 12, 5, 65), (.dist13, 13, 5, 97), (.dist14, 14, 6, 129), (.dist15, 15, 6, 193),
   (.dist16, 16, 7, 257), (.dist17, 17, 7, 385), (.dist18, 18, 8, 513), (.dist19, 19, 8, 769), (.dist20, 20, 9, 1025),
   (.dist21, 21, 9, 1537), (.dist22, 22, 10, 2049), (.dist23, 23, 10, 3073), (.dist24, 24, 11, 4097),
   (.dist25, 25, 11, 6145), (.dist26, 26, 12, 8193), (.dist27, 27, 12, 12289), (.dist28, 28, 13, 16385),
   (.dist29, 29, 13, 24577)]

/-- The repeat symbols (44_code_lengths R821-R823): instruction, symbol, extra, base, and the length repeated. -/
def repeatRows (s : State) : List (Instr × Nat × Nat × Nat × CodeLen) :=
  [(.rep16, 16, 2, 3, s.fsm.lens.getD (s.fsm.lensN.toNat - 1) 0), (.zero17, 17, 3, 3, 0), (.zero18, 18, 7, 11, 0)]

/-- The permutation ORDER as 44_code_lengths R811 prints it. -/
def orderList : List Nat := [16, 17, 18, 0, 8, 7, 9, 6, 10, 5, 11, 4, 12, 3, 13, 2, 14, 1, 15]

/-- `bl_count[L]`, the number of symbols with length `L` (42_huffman R602). -/
def symbolsOfLength (lens : List CodeLen) (L : Nat) : Nat := lens.countP fun l => l.toNat == L

/-- `next_code` is computed by the recurrence of 42_huffman R604. -/
def NextCode (lens : List CodeLen) (nc : Nat → Nat) : Prop :=
  nc 1 = 0 ∧ ∀ L, 1 ≤ L → L < 15 → nc (L + 1) = (nc L + symbolsOfLength lens L) * 2

/-- `K = Σ bl_count[L]·2^(15−L)` (42_huffman R606). -/
def KraftSum (lens : List CodeLen) : Nat := ∑ L ∈ Finset.Icc 1 15, symbolsOfLength lens L * 2 ^ (15 - L)

/-- The value of `code[sym]` for a symbol of length `L` (42_huffman R605): the symbols before it of the same length each took
one code. -/
def canonicalCode (lens : List CodeLen) (nc : Nat → Nat) (sym : Nat) (L : CodeLen) : Nat :=
  nc L.toNat + (lens.take sym).countP fun l => l == L

/-- An entry's codeword as the stream delivers it. -/
def CodeEntry.bits (e : CodeEntry) : Bits := codeBits e.len e.code

/-- The state codes as 10_state R120 prints them. -/
def stateCodes : List (FsmState × BitVec 5) :=
  [(.idle, 0), (.zhdr, 1), (.hdr, 2), (.storedHdr, 3), (.storedCopy, 4), (.fixedSetup, 5), (.dynHdr, 6), (.dynCll, 7),
   (.dynClBuild, 8), (.dynLens, 9), (.dynBuild, 10), (.bodySym, 11), (.lenExtra, 12), (.distSym, 13), (.distExtra, 14),
   (.copy, 15), (.flush, 16), (.blockEnd, 17), (.done, 18), (.error, 19)]

/-- The error codes as 60_exceptions R1101 prints them. -/
def errorCodes : List (ErrKind × BitVec 4) :=
  [(.noError, 0), (.endOfStream, 1), (.invalidZlibHeader, 2), (.invalidBlockType, 3), (.uncompressedLengthMismatch, 4),
   (.invalidSequenceSymbol, 5), (.invalidCodeLengthCount, 6), (.symbolDecodeError, 7), (.invalidBackReference, 8),
   (.oversubscribedCode, 9), (.repeatWithoutPrevious, 10)]

/-- Decode runs next in `s` against the table of the lengths `lens`, in a state of the FSM or as a DECODE command; a fault entry
starts from `u`. -/
def Decoding (s u : State) (lens : List CodeLen) : Prop :=
  (s.host.commands = [] ∧ u = s ∧
    (s.fsm.state = .dynLens ∧ s.fsm.lensN.toNat ≠ s.fsm.hlitR.toNat + 257 + s.fsm.hdistR.toNat + 1 ∧ lens = s.clLens ∨
      s.fsm.state = .bodySym ∧ lens = s.llLens ∨ s.fsm.state = .distSym ∧ lens = s.dLens)) ∨
  (sessionOver s = false ∧ u = popCommand s ∧
    ∃ c rest, s.host.commands = c :: rest ∧ c.op = 0xD ∧ lens = s.tableLens c.port.table)

/-- The reset values of 70_reset R1201, but for WIN, which it leaves unspecified, and the port outputs. -/
def ResetValues (t : State) : Prop :=
  t.rd.inbuf = [] ∧ t.rd.readbits = 0 ∧ t.rd.offset = 0 ∧ t.rd.srcEnd = false ∧
  t.win.size = 0 ∧ t.win.flushed = 0 ∧
  (∀ j, j < 19 → t.tbl.clLen[j]? = some 0) ∧ (∀ j, j < 288 → t.tbl.llLen[j]? = some 0) ∧
  (∀ j, j < 32 → t.tbl.dLen[j]? = some 0) ∧ t.tbl.llN = 0 ∧ t.tbl.dN = 0 ∧
  (∀ sel, build (t.tableLens sel) = some []) ∧
  t.fsm.state.code = 0 ∧ t.fsm.retR.code = 0 ∧ t.fsm.bfinalR = 0 ∧ t.fsm.btypeR = 0 ∧
  t.fsm.hlitR = 0 ∧ t.fsm.hdistR = 0 ∧ t.fsm.hclenR = 0 ∧ t.fsm.cllIdx = 0 ∧
  (∀ j, j < 320 → t.fsm.lens[j]? = some 0) ∧ t.fsm.lensN = 0 ∧ t.fsm.storedRem = 0 ∧ t.fsm.symR = 0 ∧
  t.fsm.lengthR = 0 ∧ t.fsm.distR = 0 ∧ t.fsm.copyRem = 0 ∧
  t.err.kind.code = 0 ∧ t.err.offset = 0 ∧ t.cfg.zlib = Config.zlibHeader ∧ t.cfg.flushT = 1024

/-- `n` executions of `AppendBackref(d)` (41_history_window R509). -/
def copyRun (d : Nat) : (n : Nat) → State → Run State
  | 0, s => .ok s
  | n + 1, s => do
    let t ← appendBackref d s
    copyRun d n t

end Sys2Proof.Machine

/-! ## Encoding -/

/-- Decoding an encoded well-formed instruction gives it back, every operand at every value (30_encoding R301-R306, R340-R343,
R370). -/
def Obligations.DecodeOfEncodeIsIdentity : Prop :=
  ∀ i : Instr, i.wf = true → decode (encode i).fmt (encode i).word (encode i).port = .ok i

/-- Each word of each format stands for one instruction, whose encoding is that word. -/
def Obligations.EncodeOfDecodeIsIdentity : Prop :=
  ∀ f w port i, decode f w port = .ok i → (encode i).fmt = f ∧ (encode i).word = w

/-- Words written out from the encodings of 30_encoding (R302, R303, R304, R341-R343, R370). -/
def Obligations.SampleWordsDecode : Prop :=
  decode .zlibHdr16 0x789C .zero = .ok (.zlibHeader 0x78 0x9C) ∧
  decode .blockHdr3 0b011 .zero = .ok (.blockFixed 1) ∧
  decode .blockHdr3 0b100 .zero = .ok (.blockDynamic 0) ∧
  decode .storedHdr32 0xFFF2000D .zero = .ok (.storedHeader 0x000D 0xFFF2) ∧
  decode .dynHdr14 0b11100000000011 .zero = .ok (.dynHeader 3 0 14) ∧
  decode .clSym5 0b10010 .zero = .ok .zero18 ∧
  decode .llSym9 0b100000000 .zero = .ok .eob ∧
  decode .llSym9 0b100011101 .zero = .ok .len285 ∧
  decode .llSym9 0b100100000 .zero = .error (.noSuchSymbol 288) ∧
  decode .dSym5 0b11101 .zero = .ok .dist29 ∧
  decode .cmd4 0b0101 .zero = .ok .cmdAlign

/-- A program's packed bytes deliver its bits in order, bit `k` as `InBit(k)` (30_encoding R363, 00_scope R9). -/
def Obligations.PackedBitsAreReadInOrder : Prop :=
  ∀ (p : Bits) (s : State) (k : Nat) (b : Bool), s.rd.inbuf = packBits p.length p → p[k]? = some b → s.inBit k = b

/-- The fixed codewords (30_encoding R344, R345). -/
def Obligations.FixedCodewords : Prop :=
  (∀ s, s ≤ 143 → codewordBits fixedLl s = some (codeBits 8 (0x30 + s))) ∧
  (∀ s, 144 ≤ s → s ≤ 255 → codewordBits fixedLl s = some (codeBits 9 (0x190 + (s - 144)))) ∧
  (∀ s, 256 ≤ s → s ≤ 279 → codewordBits fixedLl s = some (codeBits 7 (s - 256))) ∧
  (∀ s, 280 ≤ s → s ≤ 287 → codewordBits fixedLl s = some (codeBits 8 (0xC0 + (s - 280)))) ∧
  (∀ d, d ≤ 31 → codewordBits fixedD d = some (codeBits 5 d))

/-! ## A step runs the decoded instruction -/

/-- A step of the machine is the fetched instruction's meaning, with nothing around it but the host's `pass`, where that is the
host's next action (assumption log 1). -/
def Obligations.StepRunsFetchedInstruction : Prop :=
  ∀ s i, nextElement s = some (.ok i) →
    (s.host.actions = [] → step s = exec i s) ∧
    (∀ rest, s.host.actions = .pass :: rest → step s = exec i { s with host.actions := rest })

/-- Where a well-formed instruction's encoding stands at the cursor and the FSM state reads its format, or a command stands at
the head of the queue, the step runs exactly that instruction. For a symbol this says that Decode finds its codeword. That a
command comes before the FSM's own step is the model's choice (assumption log 10). -/
def Obligations.StepRunsEncodedInstruction : Prop :=
  ∀ s i, i.wf = true → s.host.actions = [] → sessionOver s = false →
    ((encode i).fmt = .cmd4 ∨ s.host.commands = [] ∧ streamFormat s = some (encode i).fmt) →
    standsAt (encode i) s → step s = exec i s

/-- In LEN_EXTRA and DIST_EXTRA the step runs the symbol SYM_R keeps (45_body_symbols R940, R980). -/
def Obligations.StepRunsKeptSymbol : Prop :=
  ∀ s i n e b, s.host.actions = [] → s.host.commands = [] → s.fsm.symR.toNat = n →
    (s.fsm.state = .lenExtra → (i, n, e, b) ∈ lengthRows → step s = exec i s) ∧
    (s.fsm.state = .distExtra → (i, n, e, b) ∈ distanceRows → step s = exec i s)

/-! ## Headers and STORED blocks -/

/-- ZLIB_HEADER (43_block_fsm R711): the mod-31 check on `CMF·256 + FLG` (20_memory R213). -/
def Obligations.ZlibHeaderChecksModulo31 : Prop :=
  ∀ (cmf flg : BitVec 8) s,
    ((cmf.toNat * 256 + flg.toNat) % 31 = 0 → ∃ t, exec (.zlibHeader cmf flg) s = .next t ∧
      Moved 16 s t ∧ t.fsm = { s.fsm with state := .hdr } ∧ SameWindow s t ∧ t.tbl = s.tbl ∧ SameOutside s t) ∧
    ((cmf.toNat * 256 + flg.toNat) % 31 ≠ 0 → ∃ t, exec (.zlibHeader cmf flg) s = .next t ∧
      Faulted .invalidZlibHeader (s.rd.offset + 16) s t)

/-- The block headers (43_block_fsm R712). -/
def Obligations.BlockHeadersDispatch : Prop :=
  ∀ (f : BitVec 1) s i btype next,
    (i, btype, next) ∈ [(Instr.blockStored f, (0 : BitVec 2), FsmState.storedHdr), (.blockFixed f, 1, .fixedSetup),
      (.blockDynamic f, 2, .dynHdr)] →
    ∃ t, exec i s = .next t ∧ Moved 3 s t ∧ t.fsm = { s.fsm with bfinalR := f, btypeR := btype, state := next } ∧
      SameWindow s t ∧ t.tbl = s.tbl ∧ SameOutside s t

/-- BTYPE = 11 (30_encoding R330; 43_block_fsm R712): every header word with it decodes to BLOCK_INVALID, which raises. BFINAL_R
and BTYPE_R keep the previous block's values. -/
def Obligations.InvalidBlockTypeRaises : Prop :=
  (∀ w port, w < 8 → w / 2 = 3 → ∃ f, decode .blockHdr3 w port = .ok (.blockInvalid f)) ∧
  ∀ f s, ∃ t, exec (.blockInvalid f) s = .next t ∧ Faulted .invalidBlockType (s.rd.offset + 3) s t

/-- STORED_HEADER (43_block_fsm R720): padding, LEN, NLEN, and the check on naturals without wrap. -/
def Obligations.StoredHeaderChecksLength : Prop :=
  ∀ (len nlen : BitVec 16) s,
    (len.toNat + nlen.toNat = 0xFFFF → ∃ t, exec (.storedHeader len nlen) s = .next t ∧
      Moved ((8 - s.rd.offset % 8) % 8 + 32) s t ∧
      t.fsm = { s.fsm with storedRem := len, state := if len = 0 then .blockEnd else .storedCopy } ∧
      SameWindow s t ∧ t.tbl = s.tbl ∧ SameOutside s t) ∧
    (len.toNat + nlen.toNat ≠ 0xFFFF → ∃ t, exec (.storedHeader len nlen) s = .next t ∧
      Faulted .uncompressedLengthMismatch (s.rd.offset + ((8 - s.rd.offset % 8) % 8 + 32)) s t)

/-! ## The DYNAMIC header -/

/-- DYN_HEADER (44_code_lengths R810). -/
def Obligations.DynHeaderStartsSequence : Prop :=
  ∀ (hlit hdist : BitVec 5) (hclen : BitVec 4) s, ∃ t, exec (.dynHeader hlit hdist hclen) s = .next t ∧ Moved 14 s t ∧
    t.fsm = { s.fsm with hlitR := hlit, hdistR := hdist, hclenR := hclen, cllIdx := 0, lensN := 0, state := .dynCll } ∧
    t.tbl = { s.tbl with clLen := t.tbl.clLen } ∧ t.tbl.clLen.length = 19 ∧ (∀ j, j < 19 → t.tbl.clLen[j]? = some 0) ∧
    SameWindow s t ∧ SameOutside s t

/-- CLL (44_code_lengths R811, R812): the length goes to symbol ORDER[CLL_IDX], and no other entry changes. -/
def Obligations.CllFollowsPermutation : Prop :=
  ∀ (len : BitVec 3) s sym, orderList[s.fsm.cllIdx.toNat]? = some sym → s.tbl.clLen.length = 19 →
    ∃ t, exec (.cll len) s = .next t ∧ Moved 3 s t ∧
      t.tbl = { s.tbl with clLen := t.tbl.clLen } ∧ t.tbl.clLen.length = 19 ∧ t.tbl.clLen[sym]? = some len ∧
      (∀ j, j ≠ sym → t.tbl.clLen[j]? = s.tbl.clLen[j]?) ∧
      t.fsm = { s.fsm with cllIdx := t.fsm.cllIdx, state := t.fsm.state } ∧
      t.fsm.cllIdx.toNat = s.fsm.cllIdx.toNat + 1 ∧
      t.fsm.state = (if s.fsm.cllIdx.toNat + 1 = s.fsm.hclenR.toNat + 4 then .dynClBuild else .dynCll) ∧
      SameWindow s t ∧ SameOutside s t

/-- CL_LIT (44_code_lengths R820): `LENS[LENS_N] <- c; LENS_N <- LENS_N + 1`. -/
def Obligations.ClLitWritesOneLength : Prop :=
  ∀ (c : BitVec 4) s, s.fsm.lensN.toNat < 320 → s.fsm.lens.length = 320 →
    ∃ t, exec (.clLit c) s = .next t ∧ Moved (codeLength s.clLens c.toNat) s t ∧
      t.fsm = { s.fsm with lens := t.fsm.lens, lensN := t.fsm.lensN, state := .dynLens } ∧
      t.fsm.lens[s.fsm.lensN.toNat]? = some c ∧
      (∀ j, j ≠ s.fsm.lensN.toNat → t.fsm.lens[j]? = s.fsm.lens[j]?) ∧
      t.fsm.lensN.toNat = s.fsm.lensN.toNat + 1 ∧
      SameWindow s t ∧ t.tbl = s.tbl ∧ SameOutside s t

/-- REP16, ZERO17 and ZERO18 with their extra bits there (44_code_lengths R821-R823, R825): the run is written, or it would
exceed total and nothing is. -/
def Obligations.RepeatsWriteRunOrOvershoot : Prop :=
  ∀ s i sym e base v, (i, sym, e, base, v) ∈ repeatRows s → (i = .rep16 → s.fsm.lensN ≠ 0) → s.fsm.lens.length = 320 →
    s.rd.offset + codeLength s.clLens sym + e ≤ s.rd.readbits →
    let r := base + FieldSum s (s.rd.offset + codeLength s.clLens sym) e
    let total := s.fsm.hlitR.toNat + 257 + s.fsm.hdistR.toNat + 1
    (s.fsm.lensN.toNat + r ≤ total → ∃ t, exec i s = .next t ∧ Moved (codeLength s.clLens sym + e) s t ∧
      t.fsm = { s.fsm with lens := t.fsm.lens, lensN := t.fsm.lensN, state := .dynLens } ∧
      (∀ j, t.fsm.lens[j]? =
        if s.fsm.lensN.toNat ≤ j ∧ j < s.fsm.lensN.toNat + r then some v else s.fsm.lens[j]?) ∧
      t.fsm.lensN.toNat = s.fsm.lensN.toNat + r ∧ SameWindow s t ∧ t.tbl = s.tbl ∧ SameOutside s t) ∧
    (total < s.fsm.lensN.toNat + r → ∃ t, exec i s = .next t ∧
      Faulted .invalidCodeLengthCount (s.rd.offset + codeLength s.clLens sym + e) s t)

/-- REP16 as a block's first code-length symbol (44_code_lengths R821, 60_exceptions R1116): it raises whether or not its extra
bits are there (R1114). -/
def Obligations.RepeatWithoutPreviousRaises : Prop :=
  ∀ s, s.fsm.lensN = 0 → ∃ t, exec .rep16 s = .next t ∧
    Faulted .repeatWithoutPrevious (s.rd.offset + codeLength s.clLens 16) s t ∧ t.err.kind.code = 10

/-! ## Body symbols -/

/-- LIT (45_body_symbols R901) and STORED_BYTE (43_block_fsm R721): one byte is appended, then FlushCheck. -/
def Obligations.LiteralsAppendOneByte : Prop :=
  ∀ (b : BitVec 8) s,
    (∃ t, exec (.lit b) s = .next t ∧ Moved (codeLength s.llLens b.toNat) s t ∧ Appended b s t ∧
      FlushChecked .bodySym s.fsm t ∧ t.tbl = s.tbl ∧ SameOutside s t) ∧
    (∃ t, exec (.storedByte b) s = .next t ∧ Moved 8 s t ∧ Appended b s t ∧
      FlushChecked (if s.fsm.storedRem - 1 = 0 then .blockEnd else .storedCopy)
        { s.fsm with storedRem := s.fsm.storedRem - 1 } t ∧
      t.tbl = s.tbl ∧ SameOutside s t)

/-- EOB (45_body_symbols R902). -/
def Obligations.EndOfBlockEndsBody : Prop :=
  ∀ s, ∃ t, exec .eob s = .next t ∧ Moved (codeLength s.llLens 256) s t ∧ t.fsm = { s.fsm with state := .blockEnd } ∧
    SameWindow s t ∧ t.tbl = s.tbl ∧ SameOutside s t

/-- A length symbol decoded in BODY_SYM and a distance symbol decoded in DIST_SYM are kept in SYM_R (45_body_symbols R900,
R941); in any state but the extra-bits states the meaning is that step (assumption log 9). -/
def Obligations.MatchSymbolsAreKept : Prop :=
  ∀ s i n e b,
    ((i, n, e, b) ∈ lengthRows → s.fsm.state ≠ .lenExtra → ∃ t, exec i s = .next t ∧
      Moved (codeLength s.llLens n) s t ∧ t.fsm = { s.fsm with symR := t.fsm.symR, state := .lenExtra } ∧
      t.fsm.symR.toNat = n ∧ SameWindow s t ∧ t.tbl = s.tbl ∧ SameOutside s t) ∧
    ((i, n, e, b) ∈ distanceRows → s.fsm.state ≠ .distExtra → ∃ t, exec i s = .next t ∧
      Moved (codeLength s.dLens n) s t ∧ t.fsm = { s.fsm with symR := t.fsm.symR, state := .distExtra } ∧
      t.fsm.symR.toNat = n ∧ SameWindow s t ∧ t.tbl = s.tbl ∧ SameOutside s t)

/-- LEN_EXTRA (45_body_symbols R940 with the table of R904): `LENGTH_R <- base + FIELD(extra)`, for every length symbol. -/
def Obligations.LengthExtraAddsBase : Prop :=
  ∀ s i n e base, (i, n, e, base) ∈ lengthRows → s.fsm.state = .lenExtra → s.rd.offset + e ≤ s.rd.readbits →
    ∃ t, exec i s = .next t ∧ Moved e s t ∧ t.fsm = { s.fsm with lengthR := t.fsm.lengthR, state := .distSym } ∧
      t.fsm.lengthR.toNat = base + FieldSum s s.rd.offset e ∧ SameWindow s t ∧ t.tbl = s.tbl ∧ SameOutside s t

/-- DIST_EXTRA (45_body_symbols R980 with the table of R942): `DIST_R <- base + FIELD(extra)`; the distance is checked against
`size` before any byte of the copy is written (60_exceptions R1109, 70_reset R1212). -/
def Obligations.DistanceExtraChecksSize : Prop :=
  ∀ s i n e base, (i, n, e, base) ∈ distanceRows → s.fsm.state = .distExtra → s.rd.offset + e ≤ s.rd.readbits →
    let d := base + FieldSum s s.rd.offset e
    (d ≤ s.win.size → ∃ t, exec i s = .next t ∧ Moved e s t ∧
      t.fsm = { s.fsm with distR := t.fsm.distR, copyRem := s.fsm.lengthR, state := .copy } ∧
      t.fsm.distR.toNat = d ∧ SameWindow s t ∧ t.tbl = s.tbl ∧ SameOutside s t) ∧
    (s.win.size < d → ∃ t, exec i s = .next t ∧ Faulted .invalidBackReference (s.rd.offset + e) s t)

/-- Symbols that no valid stream uses raise after their codeword: code-length symbols outside 0-18 (44_code_lengths R824),
which a table of 19 symbols never decodes (30_encoding R334), literal/length symbols 286 and 287, and distance symbols 30 and 31
(30_encoding R331, R332; 45_body_symbols R903, R943). -/
def Obligations.InvalidSymbolsRaise : Prop :=
  (∀ s i sym, (i = .clInvalid19 ∧ sym = 19 ∨ (∃ low : BitVec 2, i = .clInvalid20 low ∧ sym = 20 + low.toNat) ∨
      (∃ low : BitVec 3, i = .clInvalid24 low ∧ sym = 24 + low.toNat)) →
    ∃ t, exec i s = .next t ∧ Faulted .invalidSequenceSymbol (s.rd.offset + codeLength s.clLens sym) s t) ∧
  (∀ s sym t, s.tbl.clLen.length = 19 → decodeWith s.clLens s = .ok (sym, t) → sym ≤ 18) ∧
  (∀ (low : BitVec 1) s,
    (∃ t, exec (.llInvalid low) s = .next t ∧
      Faulted .symbolDecodeError (s.rd.offset + codeLength s.llLens (286 + low.toNat)) s t) ∧
    (∃ t, exec (.dInvalid low) s = .next t ∧
      Faulted .symbolDecodeError (s.rd.offset + codeLength s.dLens (30 + low.toNat)) s t))

/-! ## The command stream -/

/-- TAKE_FIELD, TAKE_CODE, PEEK_FIELD and PEEK_CODE with their bits there (40_bitreader R410-R413; 20_memory R211, R212). That
the answer goes to the result port and the command leaves the queue is the model's form (assumption log 10). -/
def Obligations.TakeAndPeekAnswerValue : Prop :=
  ∀ s i n v adv,
    (i, v, adv) ∈ [(Instr.cmdTakeField n, FieldSum s s.rd.offset n, n), (.cmdTakeCode n, CodeSum s s.rd.offset n, n),
      (.cmdPeekField n, FieldSum s s.rd.offset n, 0), (.cmdPeekCode n, CodeSum s s.rd.offset n, 0)] →
    n ≤ 16 → s.rd.offset + n ≤ s.rd.readbits →
    ∃ t, exec i s = .next t ∧ Moved adv s t ∧ SameWindow s t ∧ Answered (.value v) s t

/-- DISCARD and ALIGN (40_bitreader R414, R415): ALIGN moves to the next byte boundary and never holds or raises. That the answer
goes to the result port and the command leaves the queue is the model's form (assumption log 10). -/
def Obligations.DiscardAndAlignMoveCursor : Prop :=
  ∀ s,
    (∀ n, n ≤ 16 → s.rd.offset + n ≤ s.rd.readbits →
      ∃ t, exec (.cmdDiscard n) s = .next t ∧ Moved n s t ∧ SameWindow s t ∧ Answered .completed s t) ∧
    (s.rd.offset ≤ s.rd.readbits → s.rd.readbits % 8 = 0 →
      ∃ t n, exec .cmdAlign s = .next t ∧ Moved n s t ∧ n < 8 ∧ t.rd.offset % 8 = 0 ∧ SameWindow s t ∧
        Answered .completed s t)

/-- STARTS_WITH and HAS_BITS (40_bitreader R416, R417): neither raises or moves the cursor; with too few bits they answer false
at the end of the input, and hold before it. That the answer goes to the result port and the command leaves the queue is the
model's form (assumption log 10). -/
def Obligations.ProbesAnswerWithoutFailing : Prop :=
  ∀ s,
    (∀ p : Bits, 1 ≤ p.length → p.length ≤ 16 →
      (s.rd.offset + p.length ≤ s.rd.readbits → ∃ t b, exec (.cmdStartsWith p) s = .next t ∧ Moved 0 s t ∧
        SameWindow s t ∧ Answered (.flag b) s t ∧
        (b = true ↔ ∀ i, i < p.length → p[i]? = some (s.inBit (s.rd.offset + i)))) ∧
      (s.rd.readbits < s.rd.offset + p.length → s.rd.srcEnd = true → ∃ t, exec (.cmdStartsWith p) s = .next t ∧
        Moved 0 s t ∧ SameWindow s t ∧ Answered (.flag false) s t) ∧
      (s.rd.readbits < s.rd.offset + p.length → s.rd.srcEnd = false → ∃ t, exec (.cmdStartsWith p) s = .next t ∧
        Held s t)) ∧
    (∀ n, n ≤ 16 →
      (s.rd.offset + n ≤ s.rd.readbits → ∃ t, exec (.cmdHasBits n) s = .next t ∧ Moved 0 s t ∧ SameWindow s t ∧
        Answered (.flag true) s t) ∧
      (s.rd.readbits < s.rd.offset + n → s.rd.srcEnd = true → ∃ t, exec (.cmdHasBits n) s = .next t ∧ Moved 0 s t ∧
        SameWindow s t ∧ Answered (.flag false) s t) ∧
      (s.rd.readbits < s.rd.offset + n → s.rd.srcEnd = false → ∃ t, exec (.cmdHasBits n) s = .next t ∧ Held s t))

/-- Bits that are missing (40_bitreader R401, R406; 60_exceptions R1102): a take, a peek, a discard, or the extra bits of a
symbol consume none of them, and the step holds, or raises EndOfStream at the cursor the bits would be read from. That a
command which raises leaves the queue is the model's form (assumption log 10). -/
def Obligations.MissingBitsHoldOrRaise : Prop :=
  (∀ s i n, i ∈ [Instr.cmdTakeField n, .cmdTakeCode n, .cmdPeekField n, .cmdPeekCode n, .cmdDiscard n] → n ≤ 16 →
    s.rd.readbits < s.rd.offset + n →
    (s.rd.srcEnd = true → ∃ t, exec i s = .next t ∧ Faulted .endOfStream s.rd.offset (popCommand s) t) ∧
    (s.rd.srcEnd = false → ∃ t, exec i s = .next t ∧ Held s t)) ∧
  (∀ s i n e base o,
    ((i, n, e, base) ∈ lengthRows ∧ s.fsm.state = .lenExtra ∧ o = s.rd.offset ∨
      (i, n, e, base) ∈ distanceRows ∧ s.fsm.state = .distExtra ∧ o = s.rd.offset ∨
      (∃ v, (i, n, e, base, v) ∈ repeatRows s) ∧ (i = .rep16 → s.fsm.lensN ≠ 0) ∧
        o = s.rd.offset + codeLength s.clLens n) →
    s.rd.readbits < o + e →
    (s.rd.srcEnd = true → ∃ t, exec i s = .next t ∧ Faulted .endOfStream o s t) ∧
    (s.rd.srcEnd = false → ∃ t, exec i s = .next t ∧ Held s t))

/-- An element whose field is cut short (40_bitreader R401, R406; 43_block_fsm R700): the step holds with nothing changed but the
refill, or raises EndOfStream at the cursor before that field. While it holds, and not where it raises, in_req is 1 (R701,
60_exceptions R1120), whether or not the source has a byte. A row is a state, the bits of the fields before, and the width of
the field. -/
def Obligations.TruncatedFieldsHoldOrRaise : Prop :=
  ∀ s state before n,
    (state, before, n) ∈ [(FsmState.zhdr, 0, 8), (.zhdr, 8, 8), (.hdr, 0, 1), (.hdr, 1, 2), (.storedCopy, 0, 8), (.dynHdr, 0, 5),
      (.dynHdr, 5, 5), (.dynHdr, 10, 4), (.dynCll, 0, 3), (.storedHdr, 0, (8 - s.rd.offset % 8) % 8),
      (.storedHdr, (8 - s.rd.offset % 8) % 8, 16), (.storedHdr, (8 - s.rd.offset % 8) % 8 + 16, 16)] →
    s.host.actions = [] → s.host.commands = [] → s.fsm.state = state →
    s.rd.offset + before ≤ s.rd.readbits → s.rd.readbits < s.rd.offset + before + n →
    (s.rd.srcEnd = true →
      inReq s = false ∧ ∃ t, step s = .next t ∧ Faulted .endOfStream (s.rd.offset + before) s t) ∧
    (s.rd.srcEnd = false → inReq s = true ∧ ∃ t, step s = .next t ∧ Held s t)

/-- APPEND_LITERAL and APPEND_BACKREF (41_history_window R501, R502): the byte is written at `size mod 32768`; a back-reference
reads its byte first, and one that reaches before the first byte raises with nothing written. The read position holds a byte in
every state a run reaches (`Sound.window`). That the answer goes to the result port and the command leaves the queue, when it
raises too, is the model's form (assumption log 10). -/
def Obligations.AppendsWriteOneByte : Prop :=
  ∀ s,
    (∀ b : BitVec 8, ∃ t, exec (.cmdAppendLiteral b) s = .next t ∧ Moved 0 s t ∧ Appended b s t ∧
      Answered .completed s t) ∧
    (∀ d b, 1 ≤ d → d ≤ 32768 → d ≤ s.win.size → s.win.mem.read ((s.win.size - d) % 32768) = some b →
      ∃ t, exec (.cmdAppendBackref d) s = .next t ∧ Moved 0 s t ∧ Appended b s t ∧ Answered .completed s t) ∧
    (∀ d, 1 ≤ d → d ≤ 32768 → s.win.size < d →
      ∃ t, exec (.cmdAppendBackref d) s = .next t ∧ Faulted .invalidBackReference s.rd.offset (popCommand s) t)

/-- LAST_N and WIN_READ (41_history_window R503, R504): the bytes in order, oldest first, or a range refusal with the state
unchanged. That the refusal is an answer on the result port is the model's form (assumption log 11), and so are the result port
and that the command leaves the queue (log 10). -/
def Obligations.WindowReadsAnswerOrRefuseRange : Prop :=
  ∀ s, Sound s →
    (∀ n, n ≤ min s.win.size 32768 → ∃ t l, exec (.cmdLastN n) s = .next t ∧ Moved 0 s t ∧ SameWindow s t ∧
      Answered (.bytes l) s t ∧ l.length = n ∧
      ∀ k, k < n → l[k]? = s.win.mem.read ((s.win.size - n + k) % 32768)) ∧
    (∀ n, min s.win.size 32768 < n → ∃ t, exec (.cmdLastN n) s = .next t ∧ Moved 0 s t ∧ SameWindow s t ∧
      Answered .rangeError s t) ∧
    (∀ i, s.win.size - 32768 ≤ i → i < s.win.size → ∃ t b, exec (.cmdWinRead i) s = .next t ∧ Moved 0 s t ∧
      SameWindow s t ∧ Answered (.byte b) s t ∧ s.win.mem.read (i % 32768) = some b) ∧
    (∀ i, ¬ (s.win.size - 32768 ≤ i ∧ i < s.win.size) → ∃ t, exec (.cmdWinRead i) s = .next t ∧ Moved 0 s t ∧
      SameWindow s t ∧ Answered .rangeError s t)

/-- BUILD (42_huffman R601): `Build(lens)`, or OversubscribedCode at the current offset (R606). That the command puts its table
on the result port and replaces none of TBL_CL, TBL_LL and TBL_D is the model's choice (assumption log 13), and so are the
result port and the queue (log 10). -/
def Obligations.BuildCommandAnswersTable : Prop :=
  ∀ s (lens : List CodeLen), lens.length ≤ 288 →
    (KraftSum lens ≤ 2 ^ 15 → ∃ t tab, exec (.cmdBuild lens) s = .next t ∧ Moved 0 s t ∧ SameWindow s t ∧
      Answered (.table tab) s t ∧ build lens = some tab) ∧
    (2 ^ 15 < KraftSum lens → ∃ t, exec (.cmdBuild lens) s = .next t ∧
      Faulted .oversubscribedCode s.rd.offset (popCommand s) t)

/-- Every ending of Decode (42_huffman R610; 60_exceptions R1102, R1108, R1114). A codeword at the cursor: a DECODE command
answers its symbol and consumes exactly its bits (a step of the FSM: `StepRunsEncodedInstruction`). An empty table, or buffered
bits that are neither a codeword's beginning nor begin with one, however few and whether or not the input has ended:
SymbolDecodeError at the first bit. All the buffered bits a proper prefix of a codeword: EndOfStream at the first bit, or a
hold with in_req 1. The model's choice: where the lengths are oversubscribed, so that no table exists, Decode raises
OversubscribedCode at the cursor (assumption log 13; the FSM comes to no such step, `Session.clTable`, `Session.bodyTables`); a
DECODE command uses the table of the lengths the state holds (assumption log 13),
which for TBL_CL between DYN_HDR and DYN_CLBUILD is not the table built last (log 20); the result port and the queue (log 10). -/
def Obligations.DecodeAnswersHoldsOrRaises : Prop :=
  (∀ s sel sym p, codewordBits (s.tableLens sel) sym = some p → bitsStand p s →
    ∃ t, exec (.cmdDecode sel) s = .next t ∧ Moved p.length s t ∧ SameWindow s t ∧ Answered (.symbol sym) s t) ∧
  (∀ s sel, build (s.tableLens sel) = none →
    ∃ t, exec (.cmdDecode sel) s = .next t ∧ Faulted .oversubscribedCode s.rd.offset (popCommand s) t) ∧
  (∀ s u lens, s.host.actions = [] → Decoding s u lens → build lens = none →
    inReq s = false ∧ ∃ t, step s = .next t ∧ Faulted .oversubscribedCode s.rd.offset u t) ∧
  (∀ s u lens tab, s.host.actions = [] → Decoding s u lens → build lens = some tab →
    (tab = [] → inReq s = false ∧ ∃ t, step s = .next t ∧ Faulted .symbolDecodeError s.rd.offset u t) ∧
    (∀ p : Bits, bitsStand p s → (∀ e, e ∈ tab → ¬ e.bits <+: p ∧ ¬ p <+: e.bits) →
      inReq s = false ∧ ∃ t, step s = .next t ∧ Faulted .symbolDecodeError s.rd.offset u t) ∧
    (∀ (p : Bits) e, bitsStand p s → s.rd.offset + p.length = s.rd.readbits → e ∈ tab → p <+: e.bits → p ≠ e.bits →
      (s.rd.srcEnd = true → inReq s = false ∧ ∃ t, step s = .next t ∧ Faulted .endOfStream s.rd.offset u t) ∧
      (s.rd.srcEnd = false → inReq s = true ∧ ∃ t, step s = .next t ∧ Held s t)))

/-- A model refuses widths above 16 and patterns above 16 bits (40_bitreader R400) and distances 0 and above 32768
(41_history_window R502). That an empty pattern and more than 288 lengths are refused as well is read from the ranges of R400
and 42_huffman R601 (assumption log 12). Where CLL_IDX or LENS_N is outside its array, which no run reaches (`Session.cll`,
`Session.sequence`), CLL and CL_LIT fault; that is the model's own choice (log 17). -/
def Obligations.OutOfRangeOperandsStop : Prop :=
  ∀ s,
    (∀ n i, 16 < n → i ∈ [Instr.cmdTakeField n, .cmdTakeCode n, .cmdPeekField n, .cmdPeekCode n, .cmdDiscard n, .cmdHasBits n] →
      exec i s = .refused .illegalOperand) ∧
    (∀ p : Bits, p.length = 0 ∨ 16 < p.length → exec (.cmdStartsWith p) s = .refused .illegalOperand) ∧
    (∀ d, d = 0 ∨ 32768 < d → exec (.cmdAppendBackref d) s = .refused .illegalOperand) ∧
    (∀ lens : List CodeLen, 288 < lens.length → exec (.cmdBuild lens) s = .refused .illegalOperand) ∧
    (∀ len : BitVec 3, 19 ≤ s.fsm.cllIdx.toNat → exec (.cll len) s = .fault .arrayIndex) ∧
    (∀ c : BitVec 4, 320 ≤ s.fsm.lensN.toNat → exec (.clLit c) s = .fault .arrayIndex)

/-- Operation codes 0xE and 0xF (30_encoding R371): both decode to CMD_RESERVED, which is refused, and the FSM never issues
one. -/
def Obligations.ReservedCodesAreRefused : Prop :=
  (∀ w port, w = 0xE ∨ w = 0xF → ∃ low, decode .cmd4 w port = .ok (.cmdReserved low)) ∧
  (∀ low s, exec (.cmdReserved low) s = .refused .reservedCommand) ∧
  (∀ s low, s.host.commands = [] → nextElement s ≠ some (.ok (.cmdReserved low)))

/-! ## Tables -/

/-- BUILD assigns the canonical codes and checks for oversubscription (42_huffman R602-R606). -/
def Obligations.BuildAssignsCanonicalCodes : Prop :=
  ∀ (lens : List CodeLen) (nc : Nat → Nat), NextCode lens nc →
    (2 ^ 15 < KraftSum lens → build lens = none ∧
      ∀ s, buildTable lens s = .error (.raise .oversubscribedCode s.rd.offset)) ∧
    (KraftSum lens ≤ 2 ^ 15 → ∃ tab, build lens = some tab ∧
      ∀ e, e ∈ tab ↔ ∃ L, lens[e.sym]? = some L ∧ L ≠ 0 ∧ e.len = L.toNat ∧ e.code = canonicalCode lens nc e.sym L) ∧
    (2 ^ 15 < KraftSum lens ↔ ∃ sym L, lens[sym]? = some L ∧ L ≠ 0 ∧ 2 ^ L.toNat ≤ canonicalCode lens nc sym L)

/-- The code properties of 42_huffman R607: prefix-free, complete exactly when K = 2^15, and empty when every length is 0; bits
with 15 bits buffered at the cursor that begin with no codeword, Decode raises SymbolDecodeError (with fewer:
`DecodeAnswersHoldsOrRaises`). -/
def Obligations.CodeIsPrefixFree : Prop :=
  ∀ (lens : List CodeLen) (tab : Table), build lens = some tab →
    (∀ a b, a ∈ tab → b ∈ tab → a ≠ b → ¬ a.bits <+: b.bits) ∧
    (KraftSum lens = 2 ^ 15 → ∀ p : Bits, p.length = 15 →
      ∃ e, e ∈ tab ∧ e.bits <+: p ∧ ∀ e', e' ∈ tab → e'.bits <+: p → e' = e) ∧
    (KraftSum lens < 2 ^ 15 → ∃ p : Bits, p.length = 15 ∧ ∀ e, e ∈ tab → ¬ e.bits <+: p) ∧
    (∀ (s : State) (p : Bits), p.length = 15 → bitsStand p s → (∀ e, e ∈ tab → ¬ e.bits <+: p) →
      decodeSymbol tab s = .error (.raise .symbolDecodeError s.rd.offset)) ∧
    ((∀ l, l ∈ lens → l = 0) → tab = [])

/-- The canonical ordering of 42_huffman R608. -/
def Obligations.CodesAreCanonicallyOrdered : Prop :=
  ∀ (lens : List CodeLen) (tab : Table), build lens = some tab → ∀ a b, a ∈ tab → b ∈ tab →
    (a.len = b.len → a.sym < b.sym → a.code < b.code ∧
      b.code = a.code + ((lens.take b.sym).drop a.sym).countP fun l => l.toNat == a.len) ∧
    (a.len < b.len → a.code < b.code / 2 ^ (b.len - a.len))

/-- FIXED_SETUP (43_block_fsm R730, R731): both fixed codes are built, and the body follows. -/
def Obligations.FixedSetupInstallsFixedTables : Prop :=
  ∀ s, s.host.actions = [] → s.host.commands = [] → s.fsm.state = .fixedSetup →
    ∃ t, step s = .next t ∧ Moved 0 s t ∧ t.fsm = { s.fsm with state := .bodySym } ∧
      t.tbl.clLen = s.tbl.clLen ∧ t.tbl.llN.toNat = 288 ∧ t.tbl.dN.toNat = 32 ∧
      t.tbl.llLen.length = 288 ∧ t.tbl.dLen.length = 32 ∧
      (∀ n, n < 288 → t.tbl.llLen[n]? =
        some (if n ≤ 143 then 8 else if n ≤ 255 then 9 else if n ≤ 279 then 7 else 8)) ∧
      (∀ n, n < 32 → t.tbl.dLen[n]? = some 5) ∧
      (build t.llLens).isSome ∧ (build t.dLens).isSome ∧
      SameWindow s t ∧ SameOutside s t

/-- DYN_CLBUILD (44_code_lengths R813) and the last step of DYN_LENS (R814): TBL_CL is built or OversubscribedCode raised at
the cursor; the full sequence leads to DYN_BUILD with no bits read. -/
def Obligations.CodeLengthTableIsBuilt : Prop :=
  ∀ s, s.host.actions = [] → s.host.commands = [] →
    (s.fsm.state = .dynClBuild → KraftSum s.clLens ≤ 2 ^ 15 →
      step s = .next { s with fsm.state := .dynLens } ∧ (build s.clLens).isSome) ∧
    (s.fsm.state = .dynClBuild → 2 ^ 15 < KraftSum s.clLens →
      ∃ t, step s = .next t ∧ Faulted .oversubscribedCode s.rd.offset s t) ∧
    (s.fsm.state = .dynLens → s.fsm.lensN.toNat = s.fsm.hlitR.toNat + 257 + s.fsm.hdistR.toNat + 1 →
      step s = .next { s with fsm.state := .dynBuild })

/-- DYN_BUILD (44_code_lengths R840): LENS is split into LL_LEN and D_LEN, the rest of both arrays becomes 0, and the tables
are built or OversubscribedCode is raised at the cursor. -/
def Obligations.DynBuildSplitsLengths : Prop :=
  ∀ s, s.host.actions = [] → s.host.commands = [] → s.fsm.state = .dynBuild → s.fsm.lens.length = 320 →
    let llN := s.fsm.hlitR.toNat + 257
    let dN := s.fsm.hdistR.toNat + 1
    let ll := s.fsm.lens.take llN
    let d := (s.fsm.lens.drop llN).take dN
    (KraftSum ll ≤ 2 ^ 15 → KraftSum d ≤ 2 ^ 15 → ∃ t, step s = .next t ∧ Moved 0 s t ∧
      t.fsm = { s.fsm with state := .bodySym } ∧ t.tbl.clLen = s.tbl.clLen ∧
      t.tbl.llN.toNat = llN ∧ t.tbl.dN.toNat = dN ∧ t.tbl.llLen.length = 288 ∧ t.tbl.dLen.length = 32 ∧
      (∀ j, j < llN → t.tbl.llLen[j]? = s.fsm.lens[j]?) ∧ (∀ j, llN ≤ j → j < 288 → t.tbl.llLen[j]? = some 0) ∧
      (∀ j, j < dN → t.tbl.dLen[j]? = s.fsm.lens[llN + j]?) ∧ (∀ j, dN ≤ j → j < 32 → t.tbl.dLen[j]? = some 0) ∧
      build t.llLens = build ll ∧ build t.dLens = build d ∧ (build ll).isSome ∧ (build d).isSome ∧
      SameWindow s t ∧ SameOutside s t) ∧
    ((2 ^ 15 < KraftSum ll ∨ 2 ^ 15 < KraftSum d) → ∃ t, step s = .next t ∧
      Faulted .oversubscribedCode s.rd.offset s t)

/-! ## The copy, the flush and the block end -/

/-- COPY (45_body_symbols R981): one byte per step, read from `size − DIST_R` before it is written at `size`. -/
def Obligations.CopyStepAppendsOneByte : Prop :=
  ∀ s b, s.host.actions = [] → s.host.commands = [] → s.fsm.state = .copy →
    1 ≤ s.fsm.distR.toNat → s.fsm.distR.toNat ≤ 32768 → s.fsm.distR.toNat ≤ s.win.size →
    s.win.mem.read ((s.win.size - s.fsm.distR.toNat) % 32768) = some b →
    ∃ t, step s = .next t ∧ Moved 0 s t ∧ Appended b s t ∧
      FlushChecked (if s.fsm.copyRem - 1 = 0 then .bodySym else .copy) { s.fsm with copyRem := s.fsm.copyRem - 1 } t ∧
      t.tbl = s.tbl ∧ SameOutside s t

/-- The byte-serial copy (41_history_window R509): after `n` executions of `AppendBackref(d)` from `size₀`, output position
`size₀ + k` holds the byte of `size₀ + (k mod d) − d`, so an overlapping copy repeats the first `d` bytes; no other position
of the window changes. -/
def Obligations.CopyReplicatesPattern : Prop :=
  ∀ s d n, Sound s → 1 ≤ d → d ≤ min s.win.size 32768 → n ≤ 258 →
    ∃ t, copyRun d n s = .ok t ∧ t.win.size = s.win.size + n ∧
      (∀ k, k < n → t.win.mem.read ((s.win.size + k) % 32768) =
        s.win.mem.read ((s.win.size + k % d - d) % 32768)) ∧
      (∀ a, (∀ k, k < n → a ≠ (s.win.size + k) % 32768) → t.win.mem.read a = s.win.mem.read a) ∧
      t.win.flushed = s.win.flushed ∧ t.rd = s.rd ∧ t.tbl = s.tbl ∧ t.fsm = s.fsm ∧ SameOutside s t

/-- FLUSH (43_block_fsm R741, 41_history_window R511, 60_exceptions R1122): one byte moves when the sink is ready, marked last
when it is the last of its chunk; otherwise nothing changes and WAIT_OUT reads 1. -/
def Obligations.FlushEmitsOneByte : Prop :=
  ∀ s b, s.host.actions = [] → s.host.commands = [] → s.fsm.state = .flush →
    s.win.mem.read (s.win.flushed % 32768) = some b →
    outValid s = true ∧ outByte s = b ∧ (outLast s = true ↔ s.win.flushed + 1 = s.win.size) ∧
    (s.host.sinkReady = true → ∃ t, step s = .next t ∧ t.rd = s.rd ∧ t.tbl = s.tbl ∧ t.err = s.err ∧ t.cfg = s.cfg ∧
      t.win.size = s.win.size ∧ t.win.flushed = s.win.flushed + 1 ∧ (∀ a, t.win.mem.read a = s.win.mem.read a) ∧
      t.host = { s.host with emitted := s.host.emitted ++ [⟨b, outLast s⟩] } ∧
      t.fsm = { s.fsm with state := if s.win.flushed + 1 = s.win.size then s.fsm.retR else .flush }) ∧
    (s.host.sinkReady = false → step s = .next s ∧ waitOut s = true)

/-- BLOCK_END (43_block_fsm R742). -/
def Obligations.BlockEndFlushesThenChooses : Prop :=
  ∀ s, s.host.actions = [] → s.host.commands = [] → s.fsm.state = .blockEnd →
    (0 < s.win.size - s.win.flushed → step s = .next { s with fsm.retR := .blockEnd, fsm.state := .flush }) ∧
    (s.win.size - s.win.flushed = 0 → s.fsm.bfinalR = 1 → step s = .next { s with fsm.state := .done }) ∧
    (s.win.size - s.win.flushed = 0 → s.fsm.bfinalR = 0 → step s = .next { s with fsm.state := .hdr })

/-! ## Reset, registers and the host -/

/-- Reset, from any state (70_reset R1200, R1201). That no command is pending after it, so that in_req is 0, is the model's choice
(assumption log 15). -/
def Obligations.ResetGivesResetValues : Prop :=
  ResetValues State.reset ∧ inReq State.reset = false ∧ outValid State.reset = false ∧ outLast State.reset = false ∧
    outByte State.reset = 0 ∧
  ∀ s rest, s.host.actions = .reset :: rest → ∃ t, step s = .next t ∧ ResetValues t ∧ inReq t = false ∧
    outValid t = false ∧ outLast t = false ∧ outByte t = 0

/-- Register writes (10_state R140, R141; 43_block_fsm R710; 70_reset R1203): START and the configuration matter in IDLE only, a
CFG_T value outside 1 to 32768 is ignored, and the other registers are read-only. Each field of CTRL can be written alone: START
then leaves cfg_zlib, and without a write of ZLIB_EN its reset value holds. That a write of CTRL as a whole register sets
ZLIB_EN from bit 1 in every case, before START, is the model's choice (assumption log 14). -/
def Obligations.RegisterWritesObeyAccessRules : Prop :=
  (∀ s r v rest, s.host.actions = .write r v :: rest →
    let s' : State := { s with host.actions := rest }
    (s.fsm.state ≠ .idle → step s = .next s') ∧
    (r ≠ .ctrl → r ≠ .cfgT → step s = .next s') ∧
    (s.fsm.state = .idle → r = .ctrl → v.getLsbD 0 = false → step s = .next { s' with cfg.zlib := v.getLsbD 1 }) ∧
    (s.fsm.state = .idle → r = .ctrl → v.getLsbD 0 = true →
      step s = .next { s' with cfg.zlib := v.getLsbD 1, fsm.state := if v.getLsbD 1 = true then .zhdr else .hdr }) ∧
    (s.fsm.state = .idle → r = .cfgT → 1 ≤ v.toNat % 65536 → v.toNat % 65536 ≤ 32768 →
      step s = .next { s' with cfg.flushT := v.setWidth 16 }) ∧
    (s.fsm.state = .idle → r = .cfgT → (v.toNat % 65536 = 0 ∨ 32768 < v.toNat % 65536) → step s = .next s')) ∧
  (∀ s b rest, s.host.actions = .setZlib b :: rest →
    let s' : State := { s with host.actions := rest }
    (s.fsm.state = .idle → step s = .next { s' with cfg.zlib := b }) ∧ (s.fsm.state ≠ .idle → step s = .next s')) ∧
  (∀ s rest, s.host.actions = .start :: rest →
    let s' : State := { s with host.actions := rest }
    (s.fsm.state = .idle → step s = .next { s' with fsm.state := if s.cfg.zlib = true then .zhdr else .hdr }) ∧
    (s.fsm.state ≠ .idle → step s = .next s'))

/-- The register view (10_state R140): every field of STATUS, with the printed numbers of the states (R120) and of the error kinds
(60_exceptions R1101), each state and each kind having one, and the other registers. That WAIT_OUT goes on reporting the hold of
FLUSH while a command is pending, and that WAIT_IN then reports the command's, is the model's choice (assumption log 10); so is
the counters' low 64 bits (log 5). -/
def Obligations.RegisterViewShowsState : Prop :=
  (∀ st : FsmState, ∃ c, (st, c) ∈ stateCodes) ∧ (∀ k : ErrKind, ∃ c, (k, c) ∈ errorCodes) ∧
  ∀ s,
    (∀ c, (s.fsm.state, c) ∈ stateCodes → s.fsm.state.code = c ∧ (readReg .status s).extractLsb' 0 5 = c) ∧
    (∀ c, (s.err.kind, c) ∈ errorCodes → s.err.kind.code = c ∧ (readReg .status s).extractLsb' 9 4 = c) ∧
    (readReg .status s).extractLsb' 0 5 = s.fsm.state.code ∧
    (readReg .status s).getLsbD 5 = (s.fsm.state == .done) ∧
    (readReg .status s).getLsbD 6 = (s.fsm.state == .error) ∧
    (readReg .status s).getLsbD 7 = inReq s ∧
    (readReg .status s).getLsbD 8 = (s.fsm.state == .flush && !s.host.sinkReady) ∧
    (readReg .status s).extractLsb' 9 4 = s.err.kind.code ∧
    (readReg .status s).getLsbD 13 = (s.fsm.bfinalR == 1) ∧
    (readReg .status s).extractLsb' 14 2 = s.fsm.btypeR ∧
    (∀ k, 16 ≤ k → (readReg .status s).getLsbD k = false) ∧
    (readReg .ctrl s).getLsbD 0 = false ∧ (readReg .ctrl s).getLsbD 1 = s.cfg.zlib ∧
    (∀ k, 2 ≤ k → (readReg .ctrl s).getLsbD k = false) ∧
    (readReg .cfgT s).toNat = s.cfg.flushT.toNat ∧
    (s.err.offset < 2 ^ 64 → (readReg .errOffset s).toNat = s.err.offset) ∧
    (s.rd.offset < 2 ^ 64 → (readReg .inBits s).toNat = s.rd.offset) ∧
    (s.win.size < 2 ^ 64 → (readReg .outBytes s).toNat = s.win.size)

/-- End of input is sticky (10_state R105, 60_exceptions R1121): signalled at any time, it stays until reset, and no further
byte is accepted. -/
def Obligations.EndOfInputIsSticky : Prop :=
  (∀ s rest, s.host.actions = .endInput :: rest → ∃ t, step s = .next t ∧ t.rd = { s.rd with srcEnd := true } ∧
    t.fsm = s.fsm ∧ t.win = s.win ∧ t.tbl = s.tbl ∧ t.err = s.err ∧ t.cfg = s.cfg) ∧
  (∀ s t, s.rd.srcEnd = true → resetting s = false → step s = .next t →
    t.rd.srcEnd = true ∧ t.rd.inbuf = s.rd.inbuf ∧ t.rd.readbits = s.rd.readbits) ∧
  (∀ s rest, s.host.actions = .reset :: rest → ∃ t, step s = .next t ∧ t.rd.srcEnd = false)

/-! ## Rules of the whole machine -/

/-- Taking an exception (60_exceptions R1110, R1111; 43_block_fsm R700): a step of the core that enters ERROR leaves only the
writes of the fault entry, with a kind and the cursor at the point of the raise; a command that raises has been taken off its
queue (assumption log 10). FLUSH never returns to ERROR (`Session.flushing`). -/
def Obligations.FaultEntryIsPrecise : Prop :=
  ∀ s t, s.host.actions = [] → s.fsm.state ≠ .error → (s.fsm.state = .flush → s.fsm.retR ≠ .error) →
    step s = .next t → t.fsm.state = .error →
    ∃ k o, k ≠ .noError ∧ s.rd.offset ≤ o ∧
      t = { s with err := ⟨k, o⟩, rd.offset := o, fsm.state := .error, host.commands := s.host.commands.tail }

/-- In IDLE no step runs and no byte is asked for until the host acts (43_block_fsm R710, 70_reset R1202), unless a command is
pending (assumption log 10). DONE and ERROR are left only by reset (43_block_fsm R743, 60_exceptions R1113, 70_reset R1200,
R1204): whatever else the host does, no component changes but the end flag. -/
def Obligations.IdleAndFinishedSessionsStay : Prop :=
  (∀ s, s.fsm.state = .idle → s.host.actions = [] → s.host.commands = [] → step s = .next s ∧ inReq s = false) ∧
  (∀ s, s.fsm.state = .done ∨ s.fsm.state = .error → resetting s = false →
    ∃ t, step s = .next t ∧ t.rd = { s.rd with srcEnd := t.rd.srcEnd } ∧ t.win = s.win ∧ t.tbl = s.tbl ∧ t.fsm = s.fsm ∧
      t.err = s.err ∧ t.cfg = s.cfg ∧ inReq s = false ∧ outValid s = false ∧ t.host.emitted = s.host.emitted ∧
      (s.host.actions = [] → t = s))

/-- Configuration takes effect only in IDLE (10_state R141, 70_reset R1219). -/
def Obligations.ConfigurationIsStable : Prop :=
  ∀ s t, step s = .next t → s.fsm.state ≠ .idle → resetting s = false → t.cfg = s.cfg

/-- Only Append writes the window, one byte at `size mod 32768`, adding 1 to `size`; only FLUSH writes `flushed` (10_state
R107, R109; 20_memory R201). -/
def Obligations.WindowIsWrittenByAppendOnly : Prop :=
  ∀ s t, step s = .next t → resetting s = false →
    SameWindow s t ∨ (∃ b, Appended b s t) ∨
    (s.fsm.state = .flush ∧ t.win.size = s.win.size ∧ t.win.flushed = s.win.flushed + 1 ∧
      ∀ a, t.win.mem.read a = s.win.mem.read a)

/-- BFINAL is latched (70_reset R1217, 10_state R122, R123): only HDR and reset write BFINAL_R and BTYPE_R. A block's tables
are replaced by its setup step and by nothing else (44_code_lengths R841, 70_reset R1214, 20_memory R203). -/
def Obligations.BlockFieldsAndTablesAreLatched : Prop :=
  ∀ s t, step s = .next t → resetting s = false →
    (s.fsm.state ≠ .hdr → t.fsm.bfinalR = s.fsm.bfinalR ∧ t.fsm.btypeR = s.fsm.btypeR) ∧
    (s.fsm.state ≠ .fixedSetup → s.fsm.state ≠ .dynBuild →
      t.tbl.llLen = s.tbl.llLen ∧ t.tbl.dLen = s.tbl.dLen ∧ t.tbl.llN = s.tbl.llN ∧ t.tbl.dN = s.tbl.dN) ∧
    (s.fsm.state ≠ .dynHdr → s.fsm.state ≠ .dynCll → t.tbl.clLen = s.tbl.clLen)

/-- The cursor never moves back within a session (10_state R104, R135). -/
def Obligations.CursorNeverMovesBack : Prop :=
  ∀ s t, step s = .next t → resetting s = false → s.rd.offset ≤ t.rd.offset

/-- in_req is 1 exactly while the step holds on input (43_block_fsm R701, 60_exceptions R1120): with it the step changes nothing
but the refill or the end flag; without it the step takes neither. A byte is pulled only in a step that holds, at most one a
step (40_bitreader R405, 20_memory R232, R233; 43_block_fsm R700). A byte the host delivers is taken at once where a request is
pending, and so before any end of input signalled later, and kept by the host where none is (R1120; D32). That the host's bytes
stand in a queue, from which the first is given, is the model's form (assumption logs 1, 22). -/
def Obligations.InputIsTakenOnRequest : Prop :=
  (∀ s t, s.host.actions = [] → step s = .next t →
    (inReq s = true → s.rd.srcEnd = false ∧ Held s t) ∧
    (inReq s = false → t.rd.inbuf = s.rd.inbuf ∧ t.rd.readbits = s.rd.readbits ∧ t.rd.srcEnd = s.rd.srcEnd) ∧
    (t.rd.inbuf ≠ s.rd.inbuf → inReq s = true ∧ s.rd.srcEnd = false ∧ ∃ b rest, s.host.source = b :: rest ∧
      t = { s with rd.inbuf := s.rd.inbuf ++ [b], rd.readbits := s.rd.readbits + 8, host.source := rest })) ∧
  (∀ s b rest, s.host.actions = .deliver b :: rest →
    let s' : State := { s with host.actions := rest }
    (inReq s = true → ∀ c cs, s.host.source ++ [b] = c :: cs →
      step s = .next { s' with rd.inbuf := s.rd.inbuf ++ [c], rd.readbits := s.rd.readbits + 8, host.source := cs }) ∧
    (inReq s = false → step s = .next { s' with host.source := s.host.source ++ [b] }))

/-- The storage stays sound in every step, with or without a command stream (`Sound`: 10_state R103, R104, R110, R126, R131;
20_memory R201). -/
def Obligations.EveryStepKeepsSound : Prop :=
  ∀ s t, Sound s → step s = .next t → Sound t

/-- A session never stops: from every state of the protocol the step answers a next state, which is again one of the protocol
(`Session`; 41_history_window R505, R513, R514; 43_block_fsm R741-R743; 45_body_symbols R981). -/
def Obligations.EveryStepKeepsSession : Prop :=
  ∀ s, Session s → ∃ t, step s = .next t ∧ Session t

/-- The reset state is a state of the protocol, and so its storage is sound. -/
def Obligations.ResetStartsSession : Prop := Session State.reset

/-- The host's timing changes nothing (42_huffman R611, 43_block_fsm R745, 60_exceptions R1114): a step that needs no input now
does the same when the host has delivered more bytes early. -/
def Obligations.InputTimingIsUnobservable : Prop :=
  ∀ s t l, Sound s → s.rd.srcEnd = false → s.host.actions = [] → inReq s = false → step s = .next t →
    step (refilled l s) = .next (refilled l t)

/-- A session ends (43_block_fsm R702): from every started state of the protocol, a host that answers every request and accepts
every byte sees DONE or ERROR after finitely many steps. -/
def Obligations.EverySessionEnds : Prop :=
  ∀ s, Session s → s.fsm.state ≠ .idle → s.host.actions = [] → s.host.sinkReady = true → s.host.sourceEnds = true →
    ∃ n t, Host.Core.run Sys2Proof.core n s = .next t ∧ (t.fsm.state = .done ∨ t.fsm.state = .error)
end

