-- ==== Sys2Proof/Laws/Memory.lean ====
section
/-! SUPPORT. The laws of the window's memory: read after write, other addresses, and the canonical form. -/

namespace Sys2Proof.Machine

@[simp] theorem read_write_same (m : Memory) (k : Nat) (v : Byte) : (m.write k v).read k = some v := by
  induction m with
  | nil => simp [Memory.write, Memory.read]
  | cons c m ih =>
    obtain ⟨a, b⟩ := c
    by_cases h1 : k < a
    · simp [Memory.write, h1, Memory.read]
    · by_cases h2 : k = a
      · simp [Memory.write, h2, Memory.read]
      · simp [Memory.write, h1, h2, Memory.read, Ne.symm h2, ih]

theorem read_write_other (m : Memory) {j k : Nat} (v : Byte) (h : j ≠ k) : (m.write k v).read j = m.read j := by
  induction m with
  | nil => simp [Memory.write, Memory.read, Ne.symm h]
  | cons c m ih =>
    obtain ⟨a, b⟩ := c
    by_cases h1 : k < a
    · simp [Memory.write, h1, Memory.read, Ne.symm h]
    · by_cases h2 : k = a
      · subst h2; simp [Memory.write, Memory.read, Ne.symm h]
      · simp [Memory.write, h1, h2, Memory.read, ih]

theorem risingFrom_write (m : Memory) (lo k : Nat) (v : Byte) (hlo : lo ≤ k) (hk : k < Config.windowSize)
    (h : Memory.risingFrom lo m = true) : Memory.risingFrom lo (m.write k v) = true := by
  induction m generalizing lo with
  | nil => simp [Memory.write, Memory.risingFrom, hlo, hk]
  | cons c m ih =>
    obtain ⟨a, b⟩ := c
    simp only [Memory.risingFrom, Bool.and_eq_true, decide_eq_true_eq] at h
    obtain ⟨⟨hla, ha⟩, hm⟩ := h
    by_cases h1 : k < a
    · simp only [Memory.write, h1, if_true, Memory.risingFrom, Bool.and_eq_true, decide_eq_true_eq]
      exact ⟨⟨hlo, hk⟩, ⟨by omega, ha⟩, hm⟩
    · by_cases h2 : k = a
      · subst h2
        simp only [Memory.write, lt_irrefl, if_false, if_true, Memory.risingFrom, Bool.and_eq_true, decide_eq_true_eq]
        exact ⟨⟨hlo, hk⟩, hm⟩
      · simp only [Memory.write, h1, h2, if_false, Memory.risingFrom, Bool.and_eq_true, decide_eq_true_eq]
        exact ⟨⟨hla, ha⟩, ih _ (by omega) hm⟩

/-- Every write of the model keeps the canonical form: its address is a position modulo the window's size. -/
theorem wf_write (m : Memory) (j : Nat) (v : Byte) (h : m.wf = true) : (m.write (j % Config.windowSize) v).wf = true :=
  risingFrom_write m 0 _ v (Nat.zero_le _) (Nat.mod_lt _ (by decide)) h

/-- A cell from `lo` on is not read below `lo`. -/
theorem read_of_lt_risingFrom (m : Memory) (lo k : Nat) (h : Memory.risingFrom lo m = true) (hk : k < lo) :
    m.read k = none := by
  induction m generalizing lo with
  | nil => rfl
  | cons c m ih =>
    obtain ⟨a, b⟩ := c
    simp only [Memory.risingFrom, Bool.and_eq_true, decide_eq_true_eq] at h
    rw [Memory.read, if_neg (by omega)]
    exact ih _ h.2 (by omega)

/-- Equal memories are equal data: two canonical memories that read alike are the same list. -/
theorem risingFrom_ext (m n : Memory) (lo : Nat) (hm : Memory.risingFrom lo m = true) (hn : Memory.risingFrom lo n = true)
    (h : ∀ k, m.read k = n.read k) : m = n := by
  induction m generalizing lo n with
  | nil =>
    cases n with
    | nil => rfl
    | cons c n => have := h c.1; simp [Memory.read] at this
  | cons c m ih =>
    obtain ⟨a, b⟩ := c
    cases n with
    | nil => have := h a; simp [Memory.read] at this
    | cons d n =>
      obtain ⟨a', b'⟩ := d
      simp only [Memory.risingFrom, Bool.and_eq_true, decide_eq_true_eq] at hm hn
      have key : a = a' := by
        rcases Nat.lt_trichotomy a a' with hlt | heq | hgt
        · have := h a
          rw [Memory.read, if_pos rfl, Memory.read, if_neg (by omega),
            read_of_lt_risingFrom n (a' + 1) a hn.2 (by omega)] at this
          exact absurd this (by simp)
        · exact heq
        · have := h a'
          rw [Memory.read, if_neg (by omega), read_of_lt_risingFrom m (a + 1) a' hm.2 (by omega), Memory.read,
            if_pos rfl] at this
          exact absurd this (by simp)
      subst key
      have hb : b = b' := by have := h a; simpa [Memory.read] using this
      subst hb
      congr 1
      refine ih n (a + 1) hm.2 hn.2 fun k => ?_
      by_cases hk : a = k
      · subst hk
        rw [read_of_lt_risingFrom m (a + 1) a hm.2 (by omega), read_of_lt_risingFrom n (a + 1) a hn.2 (by omega)]
      · have := h k
        simpa [Memory.read, hk] using this

end Sys2Proof.Machine
end

