-- ==== Sys2Proof/Laws/State.lean ====
section
/-! SUPPORT. What each update of the state leaves in each component: one lemma per component per update, all by definition. -/

namespace Sys2Proof.Machine

/-! ## `offset <- offset + n` -/

@[simp] theorem advance_rd (s : State) (n : Nat) : (s.advance n).rd = { s.rd with offset := s.rd.offset + n } := rfl
@[simp] theorem advance_rd_inbuf (s : State) (n : Nat) : (s.advance n).rd.inbuf = s.rd.inbuf := rfl
@[simp] theorem advance_rd_readbits (s : State) (n : Nat) : (s.advance n).rd.readbits = s.rd.readbits := rfl
@[simp] theorem advance_rd_offset (s : State) (n : Nat) : (s.advance n).rd.offset = s.rd.offset + n := rfl
@[simp] theorem advance_rd_srcEnd (s : State) (n : Nat) : (s.advance n).rd.srcEnd = s.rd.srcEnd := rfl
@[simp] theorem advance_win (s : State) (n : Nat) : (s.advance n).win = s.win := rfl
@[simp] theorem advance_tbl (s : State) (n : Nat) : (s.advance n).tbl = s.tbl := rfl
@[simp] theorem advance_fsm (s : State) (n : Nat) : (s.advance n).fsm = s.fsm := rfl
@[simp] theorem advance_err (s : State) (n : Nat) : (s.advance n).err = s.err := rfl
@[simp] theorem advance_cfg (s : State) (n : Nat) : (s.advance n).cfg = s.cfg := rfl
@[simp] theorem advance_host (s : State) (n : Nat) : (s.advance n).host = s.host := rfl

/-! ## Append -/

@[simp] theorem append_rd (b : Byte) (s : State) : (append b s).rd = s.rd := rfl
@[simp] theorem append_rd_inbuf (b : Byte) (s : State) : (append b s).rd.inbuf = s.rd.inbuf := rfl
@[simp] theorem append_rd_readbits (b : Byte) (s : State) : (append b s).rd.readbits = s.rd.readbits := rfl
@[simp] theorem append_rd_offset (b : Byte) (s : State) : (append b s).rd.offset = s.rd.offset := rfl
@[simp] theorem append_rd_srcEnd (b : Byte) (s : State) : (append b s).rd.srcEnd = s.rd.srcEnd := rfl
@[simp] theorem append_tbl (b : Byte) (s : State) : (append b s).tbl = s.tbl := rfl
@[simp] theorem append_fsm (b : Byte) (s : State) : (append b s).fsm = s.fsm := rfl
@[simp] theorem append_err (b : Byte) (s : State) : (append b s).err = s.err := rfl
@[simp] theorem append_cfg (b : Byte) (s : State) : (append b s).cfg = s.cfg := rfl
@[simp] theorem append_host (b : Byte) (s : State) : (append b s).host = s.host := rfl
@[simp] theorem append_win_size (b : Byte) (s : State) : (append b s).win.size = s.win.size + 1 := rfl
@[simp] theorem append_win_flushed (b : Byte) (s : State) : (append b s).win.flushed = s.win.flushed := rfl
@[simp] theorem append_win_mem (b : Byte) (s : State) : (append b s).win.mem = s.win.mem.write (s.win.size % Config.windowSize) b := rfl

/-! ## Taking an exception -/

@[simp] theorem takeFault_rd (k : ErrKind) (o : Nat) (s : State) : (takeFault k o s).rd = { s.rd with offset := o } := rfl
@[simp] theorem takeFault_rd_inbuf (k : ErrKind) (o : Nat) (s : State) : (takeFault k o s).rd.inbuf = s.rd.inbuf := rfl
@[simp] theorem takeFault_rd_readbits (k : ErrKind) (o : Nat) (s : State) : (takeFault k o s).rd.readbits = s.rd.readbits := rfl
@[simp] theorem takeFault_rd_offset (k : ErrKind) (o : Nat) (s : State) : (takeFault k o s).rd.offset = o := rfl
@[simp] theorem takeFault_rd_srcEnd (k : ErrKind) (o : Nat) (s : State) : (takeFault k o s).rd.srcEnd = s.rd.srcEnd := rfl
@[simp] theorem takeFault_win (k : ErrKind) (o : Nat) (s : State) : (takeFault k o s).win = s.win := rfl
@[simp] theorem takeFault_tbl (k : ErrKind) (o : Nat) (s : State) : (takeFault k o s).tbl = s.tbl := rfl
@[simp] theorem takeFault_fsm (k : ErrKind) (o : Nat) (s : State) : (takeFault k o s).fsm = { s.fsm with state := .error } := rfl
@[simp] theorem takeFault_err (k : ErrKind) (o : Nat) (s : State) : (takeFault k o s).err = ⟨k, o⟩ := rfl
@[simp] theorem takeFault_cfg (k : ErrKind) (o : Nat) (s : State) : (takeFault k o s).cfg = s.cfg := rfl
@[simp] theorem takeFault_host (k : ErrKind) (o : Nat) (s : State) : (takeFault k o s).host = s.host := rfl

/-! ## Popping a command -/

@[simp] theorem popCommand_rd (s : State) : (popCommand s).rd = s.rd := rfl
@[simp] theorem popCommand_rd_inbuf (s : State) : (popCommand s).rd.inbuf = s.rd.inbuf := rfl
@[simp] theorem popCommand_rd_readbits (s : State) : (popCommand s).rd.readbits = s.rd.readbits := rfl
@[simp] theorem popCommand_rd_offset (s : State) : (popCommand s).rd.offset = s.rd.offset := rfl
@[simp] theorem popCommand_rd_srcEnd (s : State) : (popCommand s).rd.srcEnd = s.rd.srcEnd := rfl
@[simp] theorem popCommand_win (s : State) : (popCommand s).win = s.win := rfl
@[simp] theorem popCommand_tbl (s : State) : (popCommand s).tbl = s.tbl := rfl
@[simp] theorem popCommand_fsm (s : State) : (popCommand s).fsm = s.fsm := rfl
@[simp] theorem popCommand_err (s : State) : (popCommand s).err = s.err := rfl
@[simp] theorem popCommand_cfg (s : State) : (popCommand s).cfg = s.cfg := rfl
@[simp] theorem popCommand_host (s : State) : (popCommand s).host = { s.host with commands := s.host.commands.tail } := rfl

/-! ## Answering a command -/

@[simp] theorem answer_rd (r : Response) (s : State) : (answer r s).rd = s.rd := rfl
@[simp] theorem answer_rd_inbuf (r : Response) (s : State) : (answer r s).rd.inbuf = s.rd.inbuf := rfl
@[simp] theorem answer_rd_readbits (r : Response) (s : State) : (answer r s).rd.readbits = s.rd.readbits := rfl
@[simp] theorem answer_rd_offset (r : Response) (s : State) : (answer r s).rd.offset = s.rd.offset := rfl
@[simp] theorem answer_rd_srcEnd (r : Response) (s : State) : (answer r s).rd.srcEnd = s.rd.srcEnd := rfl
@[simp] theorem answer_win (r : Response) (s : State) : (answer r s).win = s.win := rfl
@[simp] theorem answer_tbl (r : Response) (s : State) : (answer r s).tbl = s.tbl := rfl
@[simp] theorem answer_fsm (r : Response) (s : State) : (answer r s).fsm = s.fsm := rfl
@[simp] theorem answer_err (r : Response) (s : State) : (answer r s).err = s.err := rfl
@[simp] theorem answer_cfg (r : Response) (s : State) : (answer r s).cfg = s.cfg := rfl
@[simp] theorem answer_host (r : Response) (s : State) : (answer r s).host = { s.host with commands := s.host.commands.tail, response := r } := rfl

/-! ## The reset -/

@[simp] theorem applyReset_rd_inbuf (s : State) : (applyReset s).rd.inbuf = [] := rfl
@[simp] theorem applyReset_rd_readbits (s : State) : (applyReset s).rd.readbits = 0 := rfl
@[simp] theorem applyReset_rd_offset (s : State) : (applyReset s).rd.offset = 0 := rfl
@[simp] theorem applyReset_rd_srcEnd (s : State) : (applyReset s).rd.srcEnd = false := rfl
@[simp] theorem applyReset_win (s : State) : (applyReset s).win = ⟨[], 0, 0⟩ := rfl
@[simp] theorem applyReset_tbl (s : State) : (applyReset s).tbl = State.reset.tbl := rfl
@[simp] theorem applyReset_fsm (s : State) : (applyReset s).fsm = State.reset.fsm := rfl
@[simp] theorem applyReset_err (s : State) : (applyReset s).err = ⟨.noError, 0⟩ := rfl
@[simp] theorem applyReset_cfg (s : State) : (applyReset s).cfg = ⟨Config.zlibHeader, Config.flushThreshold⟩ := rfl
@[simp] theorem applyReset_host (s : State) : (applyReset s).host = { s.host with emitted := [], commands := [], response := .none } := rfl

/-! ## A block header -/

@[simp] theorem blockHeader_rd (f : BitVec 1) (t : BitVec 2) (n : FsmState) (s : State) : (blockHeader f t n s).rd = { s.rd with offset := s.rd.offset + 3 } := rfl
@[simp] theorem blockHeader_rd_inbuf (f : BitVec 1) (t : BitVec 2) (n : FsmState) (s : State) : (blockHeader f t n s).rd.inbuf = s.rd.inbuf := rfl
@[simp] theorem blockHeader_rd_readbits (f : BitVec 1) (t : BitVec 2) (n : FsmState) (s : State) : (blockHeader f t n s).rd.readbits = s.rd.readbits := rfl
@[simp] theorem blockHeader_rd_offset (f : BitVec 1) (t : BitVec 2) (n : FsmState) (s : State) : (blockHeader f t n s).rd.offset = s.rd.offset + 3 := rfl
@[simp] theorem blockHeader_rd_srcEnd (f : BitVec 1) (t : BitVec 2) (n : FsmState) (s : State) : (blockHeader f t n s).rd.srcEnd = s.rd.srcEnd := rfl
@[simp] theorem blockHeader_win (f : BitVec 1) (t : BitVec 2) (n : FsmState) (s : State) : (blockHeader f t n s).win = s.win := rfl
@[simp] theorem blockHeader_tbl (f : BitVec 1) (t : BitVec 2) (n : FsmState) (s : State) : (blockHeader f t n s).tbl = s.tbl := rfl
@[simp] theorem blockHeader_fsm (f : BitVec 1) (t : BitVec 2) (n : FsmState) (s : State) : (blockHeader f t n s).fsm = { s.fsm with bfinalR := f, btypeR := t, state := n } := rfl
@[simp] theorem blockHeader_err (f : BitVec 1) (t : BitVec 2) (n : FsmState) (s : State) : (blockHeader f t n s).err = s.err := rfl
@[simp] theorem blockHeader_cfg (f : BitVec 1) (t : BitVec 2) (n : FsmState) (s : State) : (blockHeader f t n s).cfg = s.cfg := rfl
@[simp] theorem blockHeader_host (f : BitVec 1) (t : BitVec 2) (n : FsmState) (s : State) : (blockHeader f t n s).host = s.host := rfl

/-! ## FlushCheck -/

@[simp] theorem flushCheck_rd (n : FsmState) (s : State) : (flushCheck n s).rd = s.rd := by
  unfold flushCheck; split <;> rfl
@[simp] theorem flushCheck_win (n : FsmState) (s : State) : (flushCheck n s).win = s.win := by
  unfold flushCheck; split <;> rfl
@[simp] theorem flushCheck_tbl (n : FsmState) (s : State) : (flushCheck n s).tbl = s.tbl := by
  unfold flushCheck; split <;> rfl
@[simp] theorem flushCheck_err (n : FsmState) (s : State) : (flushCheck n s).err = s.err := by
  unfold flushCheck; split <;> rfl
@[simp] theorem flushCheck_cfg (n : FsmState) (s : State) : (flushCheck n s).cfg = s.cfg := by
  unfold flushCheck; split <;> rfl
@[simp] theorem flushCheck_host (n : FsmState) (s : State) : (flushCheck n s).host = s.host := by
  unfold flushCheck; split <;> rfl

theorem flushCheck_fsm (n : FsmState) (s : State) : (flushCheck n s).fsm =
    if s.win.size - s.win.flushed = s.cfg.flushT.toNat then { s.fsm with retR := n, state := .flush }
    else { s.fsm with state := n } := by
  unfold flushCheck; split <;> rfl

/-! ## The hold -/

@[simp] theorem holdInput_rd_offset (s : State) : (holdInput s).rd.offset = s.rd.offset := by
  unfold holdInput; split
  · rfl
  · split <;> rfl
@[simp] theorem holdInput_win (s : State) : (holdInput s).win = s.win := by
  unfold holdInput; split
  · rfl
  · split <;> rfl
@[simp] theorem holdInput_tbl (s : State) : (holdInput s).tbl = s.tbl := by
  unfold holdInput; split
  · rfl
  · split <;> rfl
@[simp] theorem holdInput_fsm (s : State) : (holdInput s).fsm = s.fsm := by
  unfold holdInput; split
  · rfl
  · split <;> rfl
@[simp] theorem holdInput_err (s : State) : (holdInput s).err = s.err := by
  unfold holdInput; split
  · rfl
  · split <;> rfl
@[simp] theorem holdInput_cfg (s : State) : (holdInput s).cfg = s.cfg := by
  unfold holdInput; split
  · rfl
  · split <;> rfl
@[simp] theorem holdInput_host_actions (s : State) : (holdInput s).host.actions = s.host.actions := by
  unfold holdInput; split
  · rfl
  · split <;> rfl
@[simp] theorem holdInput_host_emitted (s : State) : (holdInput s).host.emitted = s.host.emitted := by
  unfold holdInput; split
  · rfl
  · split <;> rfl
@[simp] theorem holdInput_host_commands (s : State) : (holdInput s).host.commands = s.host.commands := by
  unfold holdInput; split
  · rfl
  · split <;> rfl
@[simp] theorem holdInput_host_sinkReady (s : State) : (holdInput s).host.sinkReady = s.host.sinkReady := by
  unfold holdInput; split
  · rfl
  · split <;> rfl
@[simp] theorem holdInput_host_response (s : State) : (holdInput s).host.response = s.host.response := by
  unfold holdInput; split
  · rfl
  · split <;> rfl
@[simp] theorem holdInput_host_sourceEnds (s : State) : (holdInput s).host.sourceEnds = s.host.sourceEnds := by
  unfold holdInput; split
  · rfl
  · split <;> rfl

/-! ## Reading through an update -/

@[simp] theorem advance_inBit (s : State) (n k : Nat) : (s.advance n).inBit k = s.inBit k := rfl
@[simp] theorem append_inBit (b : Byte) (s : State) (k : Nat) : (append b s).inBit k = s.inBit k := rfl
@[simp] theorem advance_zero (s : State) : s.advance 0 = s := rfl
@[simp] theorem advance_advance (s : State) (m n : Nat) : (s.advance m).advance n = s.advance (m + n) := by
  simp [State.advance, Nat.add_assoc]
@[simp] theorem advance_clLens (s : State) (n : Nat) : (s.advance n).clLens = s.clLens := rfl
@[simp] theorem advance_llLens (s : State) (n : Nat) : (s.advance n).llLens = s.llLens := rfl
@[simp] theorem advance_dLens (s : State) (n : Nat) : (s.advance n).dLens = s.dLens := rfl

end Sys2Proof.Machine
end

