-- ==== Sys2Proof/Laws/Ops.lean ====
section
/-! SUPPORT. For each shared operation, everything it can do, said once. -/

namespace Sys2Proof.Machine

/-! ## How a step ends -/

/-- A step that ends in a next state completed, held or raised. -/
theorem settle_next {s t : State} {r : Run State} (h : settle s r = .next t) :
    r = .ok t ∨ (r = .error .hold ∧ t = holdInput s) ∨ ∃ k o, r = .error (.raise k o) ∧ t = takeFault k o s := by
  rcases r with (_ | ⟨k, o⟩ | f | f) | t'
  · exact .inr (.inl ⟨rfl, by simpa [settle] using h.symm⟩)
  · exact .inr (.inr ⟨k, o, rfl, by simpa [settle] using h.symm⟩)
  · simp [settle] at h
  · simp [settle] at h
  · exact .inl (by simpa [settle] using h)

/-- A hold delivers one byte, or the end of the input, or changes nothing. -/
theorem holdInput_cases (s : State) :
    (∃ b rest, s.host.source = b :: rest ∧
      holdInput s = { s with rd.inbuf := s.rd.inbuf ++ [b], rd.readbits := s.rd.readbits + 8, host.source := rest }) ∨
    (s.host.source = [] ∧ s.host.sourceEnds = true ∧ holdInput s = { s with rd.srcEnd := true }) ∨
    (s.host.source = [] ∧ s.host.sourceEnds = false ∧ holdInput s = s) := by
  rcases hsrc : s.host.source with _ | ⟨b, rest⟩
  · rcases hend : s.host.sourceEnds with _ | _
    · exact .inr (.inr ⟨rfl, rfl, by simp [holdInput, hsrc, hend]⟩)
    · exact .inr (.inl ⟨rfl, rfl, by simp [holdInput, hsrc, hend]⟩)
  · exact .inl ⟨b, rest, rfl, by simp [holdInput, hsrc]⟩

/-- How a command ends: as a step does, but that one which raises has left the queue. -/
theorem settleCommand_next {s t : State} {r : Run State} (h : settleCommand s r = .next t) :
    r = .ok t ∨ (r = .error .hold ∧ t = holdInput s) ∨
      ∃ k o, r = .error (.raise k o) ∧ t = takeFault k o (popCommand s) := by
  rcases r with (_ | ⟨k, o⟩ | f | f) | t'
  · exact .inr (.inl ⟨rfl, by simpa [settleCommand, settle] using h.symm⟩)
  · exact .inr (.inr ⟨k, o, rfl, by simpa [settleCommand] using h.symm⟩)
  · simp [settleCommand, settle] at h
  · simp [settleCommand, settle] at h
  · exact .inl (by simpa [settleCommand, settle] using h)

/-! ## The bit reader -/

/-- `Ensure(m)` (40_bitreader R401). -/
theorem ensure_eq (n : Nat) (s : State) : ensure n s =
    if s.rd.offset + n ≤ s.rd.readbits then .ok ()
    else if s.rd.srcEnd then .error (.raise .endOfStream s.rd.offset) else .error .hold := rfl

theorem ensure_ok {n : Nat} {s : State} (h : s.rd.offset + n ≤ s.rd.readbits) : ensure n s = .ok () := by
  simp [ensure_eq, h]

theorem takeField_eq (n : Nat) (s : State) : takeField n s =
    if s.rd.offset + n ≤ s.rd.readbits then .ok (fieldValue s s.rd.offset n, s.advance n)
    else if s.rd.srcEnd then .error (.raise .endOfStream s.rd.offset) else .error .hold := by
  simp only [takeField, ensure_eq]
  split
  · rfl
  · split <;> rfl

theorem takeCode_eq (n : Nat) (s : State) : takeCode n s =
    if s.rd.offset + n ≤ s.rd.readbits then .ok (codeValue s s.rd.offset n, s.advance n)
    else if s.rd.srcEnd then .error (.raise .endOfStream s.rd.offset) else .error .hold := by
  simp only [takeCode, ensure_eq]
  split
  · rfl
  · split <;> rfl

theorem peekField_eq (n : Nat) (s : State) : peekField n s =
    if s.rd.offset + n ≤ s.rd.readbits then .ok (fieldValue s s.rd.offset n)
    else if s.rd.srcEnd then .error (.raise .endOfStream s.rd.offset) else .error .hold := by
  simp only [peekField, ensure_eq]
  split
  · rfl
  · split <;> rfl

theorem peekCode_eq (n : Nat) (s : State) : peekCode n s =
    if s.rd.offset + n ≤ s.rd.readbits then .ok (codeValue s s.rd.offset n)
    else if s.rd.srcEnd then .error (.raise .endOfStream s.rd.offset) else .error .hold := by
  simp only [peekCode, ensure_eq]
  split
  · rfl
  · split <;> rfl

theorem discard_eq (n : Nat) (s : State) : discard n s =
    if s.rd.offset + n ≤ s.rd.readbits then .ok (s.advance n)
    else if s.rd.srcEnd then .error (.raise .endOfStream s.rd.offset) else .error .hold := by
  simp only [discard, ensure_eq]
  split
  · rfl
  · split <;> rfl

/-- The padding ends at a byte boundary and takes less than a byte. -/
theorem alignPad_spec (s : State) : (s.rd.offset + alignPad s) % 8 = 0 ∧ alignPad s < 8 := by
  unfold alignPad; omega

/-- ALIGN never holds or raises on a sound bit reader (40_bitreader R415). -/
theorem align_ok {s : State} (h8 : s.rd.readbits % 8 = 0) (h : s.rd.offset ≤ s.rd.readbits) :
    align s = .ok (s.advance (alignPad s)) := by
  have : s.rd.offset + alignPad s ≤ s.rd.readbits := by unfold alignPad; omega
  simp [align, discard_eq, this]

/-- `FieldValue(k, n) = Σ InBit(k+i)·2^i` (20_memory R211). -/
theorem fieldValue_eq_sum (s : State) (k n : Nat) :
    fieldValue s k n = ∑ i ∈ Finset.range n, (s.inBit (k + i)).toNat * 2 ^ i := by
  induction n generalizing k with
  | zero => simp [fieldValue]
  | succ n ih =>
    rw [fieldValue, ih, Finset.sum_range_succ', Finset.mul_sum, Nat.add_comm]
    congr 1
    · refine Finset.sum_congr rfl fun i _ => ?_
      rw [Nat.add_assoc, Nat.add_comm 1 i, pow_succ]; ring
    · simp

/-- `CodeValue(k, n) = Σ InBit(k+i)·2^(n-1-i)` (20_memory R212). -/
theorem codeValue_eq_sum (s : State) (k n : Nat) :
    codeValue s k n = ∑ i ∈ Finset.range n, (s.inBit (k + i)).toNat * 2 ^ (n - 1 - i) := by
  induction n with
  | zero => simp [codeValue]
  | succ n ih =>
    rw [codeValue, ih, Finset.sum_range_succ, Finset.mul_sum]
    congr 1
    · refine Finset.sum_congr rfl fun i hi => ?_
      have hi' := Finset.mem_range.mp hi
      have : n + 1 - 1 - i = n - 1 - i + 1 := by omega
      rw [this, pow_succ]; ring
    · simp

theorem fieldValue_lt (s : State) (k n : Nat) : fieldValue s k n < 2 ^ n := by
  induction n generalizing k with
  | zero => simp [fieldValue]
  | succ n ih =>
    have h1 := ih (k + 1)
    have h2 : (s.inBit k).toNat ≤ 1 := Bool.toNat_le _
    rw [fieldValue, pow_succ]; omega

theorem codeValue_lt (s : State) (k n : Nat) : codeValue s k n < 2 ^ n := by
  induction n with
  | zero => simp [codeValue]
  | succ n ih =>
    have h2 : (s.inBit (k + n)).toNat ≤ 1 := Bool.toNat_le _
    rw [codeValue, pow_succ]; omega

theorem fieldValue_advance (s : State) (n k m : Nat) : fieldValue (s.advance n) k m = fieldValue s k m := by
  induction m generalizing k with
  | zero => rfl
  | succ m ih => simp [fieldValue, ih]

/-- Splitting a FIELD read: the second read's value is shifted left by the first read's width (20_memory R215). -/
theorem fieldValue_add (s : State) (k m n : Nat) :
    fieldValue s k (m + n) = fieldValue s k m + 2 ^ m * fieldValue s (k + m) n := by
  induction m generalizing k with
  | zero => simp [fieldValue]
  | succ m ih =>
    rw [show m + 1 + n = (m + n) + 1 by omega, fieldValue, fieldValue, ih, show k + 1 + m = k + (m + 1) by omega, pow_succ]
    ring

/-- The extra bits of a row (30_encoding R310). -/
theorem takeExtra_eq (row : Nat × Nat) (s : State) : takeExtra row s =
    if s.rd.offset + row.1 ≤ s.rd.readbits then
      .ok (row.2 + fieldValue s s.rd.offset row.1, s.advance row.1)
    else if s.rd.srcEnd then .error (.raise .endOfStream s.rd.offset) else .error .hold := by
  simp only [takeExtra, takeField_eq]
  split
  · rfl
  · split <;> rfl

/-! ## The history window -/

theorem winByte_ok {j : Nat} {s : State} {b : Byte} :
    winByte j s = .ok b ↔ s.win.mem.read (j % Config.windowSize) = some b := by
  unfold winByte
  cases h : s.win.mem.read (j % Config.windowSize) <;> simp

/-- What Append does to the bytes of memory (41_history_window R501). -/
theorem append_read (b : Byte) (s : State) (a : Nat) : (append b s).win.mem.read a =
    if a = s.win.size % Config.windowSize then some b else s.win.mem.read a := by
  by_cases h : a = s.win.size % Config.windowSize
  · subst h; simp
  · simp [h, read_write_other _ b h]

/-- Everything AppendBackref can do (41_history_window R502). -/
theorem appendBackref_eq (d : Nat) (s : State) : appendBackref d s =
    if d = 0 ∨ Config.windowSize < d then .error (.refuse .illegalOperand)
    else if s.win.size < d then .error (.raise .invalidBackReference s.rd.offset)
    else match s.win.mem.read ((s.win.size - d) % Config.windowSize) with
      | some b => .ok (append b s)
      | none => .error (.fault .unwrittenWindow) := by
  unfold appendBackref
  split
  · rfl
  · split
    · rfl
    · unfold winByte
      cases s.win.mem.read ((s.win.size - d) % Config.windowSize) <;> rfl

theorem appendBackref_ok {d : Nat} {s t : State} (h : appendBackref d s = .ok t) :
    1 ≤ d ∧ d ≤ Config.windowSize ∧ d ≤ s.win.size ∧
      ∃ b, s.win.mem.read ((s.win.size - d) % Config.windowSize) = some b ∧ t = append b s := by
  rw [appendBackref_eq] at h
  split at h
  · simp at h
  · split at h
    · simp at h
    · rename_i h1 h2
      cases hr : s.win.mem.read ((s.win.size - d) % Config.windowSize) with
      | none => simp [hr] at h
      | some b =>
        rw [hr] at h
        exact ⟨by omega, by omega, by omega, b, rfl, by simpa using h.symm⟩

/-- The bytes LAST_N answers, position by position. -/
theorem winBytes_ok {n j : Nat} {s : State} {l : List Byte} (h : winBytes j n s = .ok l) :
    l.length = n ∧ ∀ i, i < n → l[i]? = s.win.mem.read ((j + i) % Config.windowSize) := by
  induction n generalizing j l with
  | zero =>
    simp only [winBytes, Except.ok.injEq] at h
    subst h; simp
  | succ n ih =>
    simp only [winBytes] at h
    cases hb : winByte j s with
    | error e => rw [hb] at h; cases h
    | ok b =>
      rw [hb] at h
      cases hr : winBytes (j + 1) n s with
      | error e => rw [hr] at h; cases h
      | ok rest =>
        rw [hr] at h
        cases h
        obtain ⟨hl, hi⟩ := ih hr
        refine ⟨by simp [hl], fun i hin => ?_⟩
        cases i with
        | zero => simpa using (winByte_ok.mp hb).symm
        | succ i =>
          have := hi i (by omega)
          rw [show j + (i + 1) = j + 1 + i by omega]
          simpa using this

/-- The bytes are there when every position is written. -/
theorem winBytes_total {n j : Nat} {s : State}
    (h : ∀ i, i < n → ∃ b, s.win.mem.read ((j + i) % Config.windowSize) = some b) : ∃ l, winBytes j n s = .ok l := by
  induction n generalizing j with
  | zero => exact ⟨[], rfl⟩
  | succ n ih =>
    obtain ⟨b, hb⟩ := h 0 (by omega)
    obtain ⟨l, hl⟩ := ih (j := j + 1) fun i hi => by
      have := h (i + 1) (by omega)
      rwa [show j + (i + 1) = j + 1 + i by omega] at this
    have hw : winByte j s = .ok b := winByte_ok.mpr hb
    exact ⟨b :: l, by simp [winBytes, hw, hl, bind, Except.bind, pure, Except.pure]⟩

/-! ## Tables -/

/-- A codeword of a table: its symbol's length is the symbol's entry in the length array (42_huffman R600). -/
theorem mem_assignCodes {next : List Nat} {sym : Nat} {lens : List CodeLen} {e : CodeEntry}
    (h : e ∈ assignCodes next sym lens) :
    sym ≤ e.sym ∧ e.sym - sym < lens.length ∧ e.len = (lens.getD (e.sym - sym) 0).toNat ∧ 1 ≤ e.len := by
  induction lens generalizing next sym with
  | nil => simp [assignCodes] at h
  | cons l ls ih =>
    have step : ∀ {nx}, e ∈ assignCodes nx (sym + 1) ls →
        sym ≤ e.sym ∧ e.sym - sym < (l :: ls).length ∧ e.len = ((l :: ls).getD (e.sym - sym) 0).toNat ∧ 1 ≤ e.len := by
      intro nx hm
      obtain ⟨h1, h2, h3, h4⟩ := ih hm
      have hs : e.sym - sym = (e.sym - (sym + 1)) + 1 := by omega
      refine ⟨by omega, by simp; omega, ?_, h4⟩
      rw [hs]; simpa using h3
    rw [assignCodes] at h
    split at h
    · exact step h
    · rename_i hl
      rcases List.mem_cons.mp h with rfl | hm
      · have hne : l.toNat ≠ 0 := fun hz => hl (BitVec.eq_of_toNat_eq (by simpa using hz))
        exact ⟨le_refl _, by simp, by simp, Nat.one_le_iff_ne_zero.mpr hne⟩
      · exact step hm

theorem build_eq_some {lens : List CodeLen} {t : Table} (h : build lens = some t) :
    kraft lens ≤ 2 ^ Config.maxCodeLen ∧ t = assignCodes (nextCodes lens) 0 lens := by
  unfold build at h
  split at h
  · cases h
  · exact ⟨by omega, by simpa using h.symm⟩

theorem lookup_some {t : Table} {k v sym : Nat} (h : lookup t k v = some sym) :
    ∃ e ∈ t, e.len = k ∧ e.code = v ∧ e.sym = sym := by
  unfold lookup at h
  rcases hf : t.find? fun e => e.len == k && e.code == v with _ | e
  · simp [hf] at h
  · have hp := List.find?_some hf
    simp only [Bool.and_eq_true, beq_iff_eq] at hp
    exact ⟨e, List.mem_of_find?_eq_some hf, hp.1, hp.2, by simpa [hf] using h⟩

/-- The walk answers a codeword of the table whose bits it has looked at, or stops with the cursor where it was. -/
theorem decodeWalk_cases (t : Table) (s : State) (fuel k v : Nat) :
    (∃ e ∈ t, k < e.len ∧ s.rd.offset + e.len ≤ s.rd.readbits ∧
      decodeWalk t s fuel k v = .ok (e.sym, s.advance e.len)) ∨
    decodeWalk t s fuel k v = .error (.raise .symbolDecodeError s.rd.offset) ∨
    (s.rd.srcEnd = true ∧ decodeWalk t s fuel k v = .error (.raise .endOfStream s.rd.offset)) ∨
    (s.rd.srcEnd = false ∧ decodeWalk t s fuel k v = .error .hold) := by
  induction fuel generalizing k v with
  | zero => exact .inr (.inl rfl)
  | succ fuel ih =>
    by_cases hb : s.rd.offset + (k + 1) ≤ s.rd.readbits
    · simp only [decodeWalk, ensure_ok hb, bind, Except.bind]
      cases hl : lookup t (k + 1) (2 * v + (s.inBit (s.rd.offset + k)).toNat) with
      | some sym =>
        obtain ⟨e, he, h1, h2, h3⟩ := lookup_some hl
        exact .inl ⟨e, he, by omega, by omega, by simp [pure, Except.pure, h1, h3]⟩
      | none =>
        simp only
        split
        · rcases ih (k + 1) (2 * v + (s.inBit (s.rd.offset + k)).toNat) with ⟨e, he, h1, h2, h3⟩ | h | h | h
          · exact .inl ⟨e, he, by omega, h2, h3⟩
          · exact .inr (.inl h)
          · exact .inr (.inr (.inl h))
          · exact .inr (.inr (.inr h))
        · exact .inr (.inl rfl)
    · cases hs : s.rd.srcEnd
      · refine .inr (.inr (.inr ⟨rfl, ?_⟩))
        simp [decodeWalk, ensure_eq, hb, hs, bind, Except.bind]
      · refine .inr (.inr (.inl ⟨rfl, ?_⟩))
        simp [decodeWalk, ensure_eq, hb, hs, bind, Except.bind]

/-- Everything `Decode` can do (42_huffman R610): consume exactly the codeword of a symbol, or stop with the cursor where it
was. -/
theorem decodeWith_cases (lens : List CodeLen) (s : State) :
    (∃ sym, sym < lens.length ∧ 1 ≤ codeLength lens sym ∧ s.rd.offset + codeLength lens sym ≤ s.rd.readbits ∧
      decodeWith lens s = .ok (sym, s.advance (codeLength lens sym))) ∨
    (∃ k, (k = .symbolDecodeError ∨ k = .oversubscribedCode ∨ (k = .endOfStream ∧ s.rd.srcEnd = true)) ∧
      decodeWith lens s = .error (.raise k s.rd.offset)) ∨
    (s.rd.srcEnd = false ∧ decodeWith lens s = .error .hold) := by
  cases hb : build lens with
  | none => exact .inr (.inl ⟨.oversubscribedCode, .inr (.inl rfl), by simp [decodeWith, buildTable, hb, bind, Except.bind]⟩)
  | some t =>
    have hd : decodeWith lens s = decodeSymbol t s := by simp [decodeWith, buildTable, hb, bind, Except.bind]
    rw [hd]
    unfold decodeSymbol
    split
    · exact .inr (.inl ⟨.symbolDecodeError, .inl rfl, rfl⟩)
    · rcases decodeWalk_cases t s Config.maxCodeLen 0 0 with ⟨e, he, h1, h2, h3⟩ | h | ⟨hs, h⟩ | ⟨hs, h⟩
      · rw [(build_eq_some hb).2] at he
        obtain ⟨-, m2, m3, m4⟩ := mem_assignCodes he
        rw [Nat.sub_zero] at m2 m3
        have hcl : codeLength lens e.sym = e.len := m3.symm
        exact .inl ⟨e.sym, m2, by omega, by omega, by rw [hcl]; exact h3⟩
      · exact .inr (.inl ⟨.symbolDecodeError, .inl rfl, h⟩)
      · exact .inr (.inl ⟨.endOfStream, .inr (.inr ⟨rfl, hs⟩), h⟩)
      · exact .inr (.inr ⟨hs, h⟩)

/-! ## The code-length sequence -/

/-- A run written into the sequence, entry by entry. -/
theorem setRun_getElem? (l : List CodeLen) (i r : Nat) (v : CodeLen) (h : i + r ≤ l.length) (j : Nat) :
    (setRun l i r v)[j]? = if i ≤ j ∧ j < i + r then some v else l[j]? := by
  unfold setRun
  by_cases h1 : j < i
  · have hlen : j < (l.take i).length := by simp; omega
    rw [List.append_assoc, List.getElem?_append_left hlen, List.getElem?_take_of_lt h1, if_neg (by omega)]
  · by_cases h2 : j < i + r
    · rw [List.append_assoc, List.getElem?_append_right (by simp; omega)]
      rw [List.getElem?_append_left (by simp; omega), if_pos ⟨by omega, h2⟩]
      rw [List.getElem?_replicate]; simp; omega
    · rw [List.append_assoc, List.getElem?_append_right (by simp; omega)]
      rw [List.getElem?_append_right (by simp; omega), if_neg (by omega), List.getElem?_drop]
      congr 1; simp; omega

theorem setRun_length (l : List CodeLen) (i r : Nat) (v : CodeLen) (h : i + r ≤ l.length) :
    (setRun l i r v).length = l.length := by
  unfold setRun; simp; omega

/-- Everything the tail of a repeat can do (44_code_lengths R821-R825). -/
theorem repeatLength_cases (r : Nat) (v : CodeLen) (s : State) :
    (totalLengths s < s.fsm.lensN.toNat + r ∧
      repeatLength r v s = .error (.raise .invalidCodeLengthCount s.rd.offset)) ∨
    (s.fsm.lensN.toNat + r ≤ totalLengths s ∧ repeatLength r v s = .ok { s with
      fsm.lens := setRun s.fsm.lens s.fsm.lensN.toNat r v,
      fsm.lensN := s.fsm.lensN + BitVec.ofNat 9 r,
      fsm.state := .dynLens }) := by
  unfold repeatLength
  split
  · exact .inl ⟨by assumption, rfl⟩
  · exact .inr ⟨by omega, rfl⟩

/-! ## The input request -/

/-- Nothing is requested once the end of input has been signalled. -/
theorem inReq_of_srcEnd {s : State} (h : s.rd.srcEnd = true) : inReq s = false := by
  unfold inReq
  split <;> simp [h]

/-- Whether the step holds does not depend on what the host has to give. -/
theorem inReq_host (s : State) (source : List Byte) (actions : List HostAction) (ends : Bool) :
    inReq { s with host.source := source, host.actions := actions, host.sourceEnds := ends } = inReq s := rfl

/-- Everything a delivery can do: the pending request takes the first of the host's bytes, or the host keeps the byte. -/
theorem deliverByte_cases (b : Byte) (s : State) :
    (inReq s = true ∧ ∃ c cs, s.host.source ++ [b] = c :: cs ∧ deliverByte b s =
      { s with rd.inbuf := s.rd.inbuf ++ [c], rd.readbits := s.rd.readbits + 8, host.source := cs }) ∨
    (inReq s = false ∧ deliverByte b s = { s with host.source := s.host.source ++ [b] }) := by
  cases h : inReq s with
  | false => exact .inr ⟨rfl, by simp [deliverByte, h]⟩
  | true =>
    refine .inl ⟨rfl, ?_⟩
    cases hs : s.host.source with
    | nil => exact ⟨b, [], rfl, by simp [deliverByte, h, holdInput, hs]⟩
    | cons c cs => exact ⟨c, cs ++ [b], rfl, by simp [deliverByte, h, holdInput, hs]⟩

end Sys2Proof.Machine
end

