-- ==== Sys2Proof/Laws/PerInstr.lean ====
section
/-! SUPPORT. A fact about every instruction as syntax, one lemma for each: its word fits its format. -/

/-- The instruction's encoded word has no bit above its format's width. -/
def Sys2Proof.Laws.WordFits.Statement (i : Sys2Proof.Instr) : Prop :=
  (Sys2Proof.encode i).word < 2 ^ (Sys2Proof.encode i).fmt.bits

namespace Sys2Proof.Laws.WordFits

theorem zlibHeader (cmf flg : BitVec 8) : Statement (.zlibHeader cmf flg) := by
  simp only [Statement, encode, Element.of, Format.bits]; bv_omega
theorem blockStored (bfinal : BitVec 1) : Statement (.blockStored bfinal) := by
  simp only [Statement, encode, Element.of, Format.bits]; bv_omega
theorem blockFixed (bfinal : BitVec 1) : Statement (.blockFixed bfinal) := by
  simp only [Statement, encode, Element.of, Format.bits]; bv_omega
theorem blockDynamic (bfinal : BitVec 1) : Statement (.blockDynamic bfinal) := by
  simp only [Statement, encode, Element.of, Format.bits]; bv_omega
theorem blockInvalid (bfinal : BitVec 1) : Statement (.blockInvalid bfinal) := by
  simp only [Statement, encode, Element.of, Format.bits]; bv_omega
theorem storedHeader (len nlen : BitVec 16) : Statement (.storedHeader len nlen) := by
  simp only [Statement, encode, Element.of, Format.bits]; bv_omega
theorem storedByte (b : BitVec 8) : Statement (.storedByte b) := by
  simp only [Statement, encode, Element.of, Format.bits]; bv_omega
theorem dynHeader (hlit hdist : BitVec 5) (hclen : BitVec 4) : Statement (.dynHeader hlit hdist hclen) := by
  simp only [Statement, encode, Element.of, Format.bits]; bv_omega
theorem cll (len : BitVec 3) : Statement (.cll len) := by
  simp only [Statement, encode, Element.of, Format.bits]; bv_omega
theorem clLit (c : BitVec 4) : Statement (.clLit c) := by
  simp only [Statement, encode, Element.of, Format.bits]; bv_omega
theorem rep16 : Statement .rep16 := by unfold Statement; decide
theorem zero17 : Statement .zero17 := by unfold Statement; decide
theorem zero18 : Statement .zero18 := by unfold Statement; decide
theorem clInvalid19 : Statement .clInvalid19 := by unfold Statement; decide
theorem clInvalid20 (low : BitVec 2) : Statement (.clInvalid20 low) := by
  simp only [Statement, encode, Element.of, Format.bits]; bv_omega
theorem clInvalid24 (low : BitVec 3) : Statement (.clInvalid24 low) := by
  simp only [Statement, encode, Element.of, Format.bits]; bv_omega
theorem lit (b : BitVec 8) : Statement (.lit b) := by
  simp only [Statement, encode, Element.of, Format.bits]; bv_omega
theorem eob : Statement .eob := by unfold Statement; decide
theorem len257 : Statement .len257 := by unfold Statement; decide
theorem len258 : Statement .len258 := by unfold Statement; decide
theorem len259 : Statement .len259 := by unfold Statement; decide
theorem len260 : Statement .len260 := by unfold Statement; decide
theorem len261 : Statement .len261 := by unfold Statement; decide
theorem len262 : Statement .len262 := by unfold Statement; decide
theorem len263 : Statement .len263 := by unfold Statement; decide
theorem len264 : Statement .len264 := by unfold Statement; decide
theorem len265 : Statement .len265 := by unfold Statement; decide
theorem len266 : Statement .len266 := by unfold Statement; decide
theorem len267 : Statement .len267 := by unfold Statement; decide
theorem len268 : Statement .len268 := by unfold Statement; decide
theorem len269 : Statement .len269 := by unfold Statement; decide
theorem len270 : Statement .len270 := by unfold Statement; decide
theorem len271 : Statement .len271 := by unfold Statement; decide
theorem len272 : Statement .len272 := by unfold Statement; decide
theorem len273 : Statement .len273 := by unfold Statement; decide
theorem len274 : Statement .len274 := by unfold Statement; decide
theorem len275 : Statement .len275 := by unfold Statement; decide
theorem len276 : Statement .len276 := by unfold Statement; decide
theorem len277 : Statement .len277 := by unfold Statement; decide
theorem len278 : Statement .len278 := by unfold Statement; decide
theorem len279 : Statement .len279 := by unfold Statement; decide
theorem len280 : Statement .len280 := by unfold Statement; decide
theorem len281 : Statement .len281 := by unfold Statement; decide
theorem len282 : Statement .len282 := by unfold Statement; decide
theorem len283 : Statement .len283 := by unfold Statement; decide
theorem len284 : Statement .len284 := by unfold Statement; decide
theorem len285 : Statement .len285 := by unfold Statement; decide
theorem llInvalid (low : BitVec 1) : Statement (.llInvalid low) := by
  simp only [Statement, encode, Element.of, Format.bits]; bv_omega
theorem dist0 : Statement .dist0 := by unfold Statement; decide
theorem dist1 : Statement .dist1 := by unfold Statement; decide
theorem dist2 : Statement .dist2 := by unfold Statement; decide
theorem dist3 : Statement .dist3 := by unfold Statement; decide
theorem dist4 : Statement .dist4 := by unfold Statement; decide
theorem dist5 : Statement .dist5 := by unfold Statement; decide
theorem dist6 : Statement .dist6 := by unfold Statement; decide
theorem dist7 : Statement .dist7 := by unfold Statement; decide
theorem dist8 : Statement .dist8 := by unfold Statement; decide
theorem dist9 : Statement .dist9 := by unfold Statement; decide
theorem dist10 : Statement .dist10 := by unfold Statement; decide
theorem dist11 : Statement .dist11 := by unfold Statement; decide
theorem dist12 : Statement .dist12 := by unfold Statement; decide
theorem dist13 : Statement .dist13 := by unfold Statement; decide
theorem dist14 : Statement .dist14 := by unfold Statement; decide
theorem dist15 : Statement .dist15 := by unfold Statement; decide
theorem dist16 : Statement .dist16 := by unfold Statement; decide
theorem dist17 : Statement .dist17 := by unfold Statement; decide
theorem dist18 : Statement .dist18 := by unfold Statement; decide
theorem dist19 : Statement .dist19 := by unfold Statement; decide
theorem dist20 : Statement .dist20 := by unfold Statement; decide
theorem dist21 : Statement .dist21 := by unfold Statement; decide
theorem dist22 : Statement .dist22 := by unfold Statement; decide
theorem dist23 : Statement .dist23 := by unfold Statement; decide
theorem dist24 : Statement .dist24 := by unfold Statement; decide
theorem dist25 : Statement .dist25 := by unfold Statement; decide
theorem dist26 : Statement .dist26 := by unfold Statement; decide
theorem dist27 : Statement .dist27 := by unfold Statement; decide
theorem dist28 : Statement .dist28 := by unfold Statement; decide
theorem dist29 : Statement .dist29 := by unfold Statement; decide
theorem dInvalid (low : BitVec 1) : Statement (.dInvalid low) := by
  simp only [Statement, encode, Element.of, Format.bits]; bv_omega
theorem cmdTakeField (n : Nat) : Statement (.cmdTakeField n) := by
  simp [Statement, encode, Element.cmdN, Format.bits]
theorem cmdTakeCode (n : Nat) : Statement (.cmdTakeCode n) := by
  simp [Statement, encode, Element.cmdN, Format.bits]
theorem cmdPeekField (n : Nat) : Statement (.cmdPeekField n) := by
  simp [Statement, encode, Element.cmdN, Format.bits]
theorem cmdPeekCode (n : Nat) : Statement (.cmdPeekCode n) := by
  simp [Statement, encode, Element.cmdN, Format.bits]
theorem cmdDiscard (n : Nat) : Statement (.cmdDiscard n) := by
  simp [Statement, encode, Element.cmdN, Format.bits]
theorem cmdAlign : Statement .cmdAlign := by unfold Statement; decide
theorem cmdStartsWith (pattern : Bits) : Statement (.cmdStartsWith pattern) := by
  simp [Statement, encode, Format.bits]
theorem cmdHasBits (n : Nat) : Statement (.cmdHasBits n) := by
  simp [Statement, encode, Element.cmdN, Format.bits]
theorem cmdAppendLiteral (b : BitVec 8) : Statement (.cmdAppendLiteral b) := by
  simp [Statement, encode, Element.cmdN, Format.bits]
theorem cmdAppendBackref (d : Nat) : Statement (.cmdAppendBackref d) := by
  simp [Statement, encode, Element.cmdN, Format.bits]
theorem cmdLastN (n : Nat) : Statement (.cmdLastN n) := by
  simp [Statement, encode, Element.cmdN, Format.bits]
theorem cmdWinRead (i : Nat) : Statement (.cmdWinRead i) := by
  simp [Statement, encode, Element.cmdN, Format.bits]
theorem cmdBuild (lens : List CodeLen) : Statement (.cmdBuild lens) := by
  simp [Statement, encode, Format.bits]
theorem cmdDecode (table : TableSel) : Statement (.cmdDecode table) := by
  simp [Statement, encode, Format.bits]
theorem cmdReserved (low : BitVec 1) : Statement (.cmdReserved low) := by
  simp only [Statement, encode, Element.of, Format.bits]; bv_omega

end Sys2Proof.Laws.WordFits
end

