-- ==== Sys2Proof/Tests/Slice0.lean ====
section
/-! SUPPORT. The model's own tests, each a single step on a small state: the ill-formed terms, every constructor's decoding from
words written out bit by bit, one or two steps of each instruction with values from the spec's examples, and for each obligation
with hypotheses a witness that meets them. -/

namespace Sys2Proof.Tests

open Sys2Proof Sys2Proof.Machine

-- Checked one after another: the kernel evaluations would otherwise wait in as many threads.
set_option Elab.async false

/-! ## Helpers -/

/-- The reset state with input bytes, a cursor and an FSM state. -/
def feed (bytes : List Byte) (o : Nat) (st : FsmState) : State :=
  { State.reset with rd := ⟨bytes, 8 * bytes.length, o, false⟩, fsm.state := st }

/-- The same with the fixed tables. -/
def fixedAt (bytes : List Byte) (o : Nat) (st : FsmState) : State :=
  { feed bytes o st with tbl := { State.reset.tbl with llLen := fixedLl, llN := 288, dLen := fixedD, dN := 32 } }

/-- The code-length table of the stream `05 00 A2 0D` (44_code_lengths R821): 16 '0', 17 '10', 0 '110', 18 '111'. -/
def clTable : List (BitVec 3) := [3, 0, 0, 0, 0, 0, 0, 0, 0, 0, 0, 0, 0, 0, 0, 0, 1, 2, 3]

/-- DYN_LENS with that table and `n` lengths read. -/
def seqAt (bytes : List Byte) (o : Nat) (n : BitVec 9) : State :=
  { feed bytes o .dynLens with tbl := { State.reset.tbl with clLen := clTable }, fsm.lensN := n }

/-- A command on the input `B5 0F` of 40_bitreader, in IDLE. -/
def cmdAt (o : Nat) (op : BitVec 4) (port : Operand) : State :=
  { feed [0xB5, 0x0F] o .idle with host := { HostSide.quiet with commands := [⟨op, port⟩] } }

/-- A number on the operand port. -/
def num (n : Nat) : Operand := { Operand.zero with n := n }

/-- The window after 'a', 'b', 'c' (41_history_window R503). -/
def abc (s : State) : State := { s with win := ⟨[(0, 0x61), (1, 0x62), (2, 0x63)], 3, 0⟩ }

/-- The length set of the construction example of 42_huffman: symbols 0 to 7 for A to H. -/
def exampleLens : List CodeLen := [3, 3, 3, 3, 3, 2, 4, 4]

/-- The outcome is a next state of which `p` holds. -/
def leads (o : Host.Outcome State Fault Refusal) (p : State → Bool) : Bool :=
  match o with
  | .next t => p t
  | .fault _ => false
  | .refused _ => false

/-- A next state is reached. -/
theorem leads_spec {o : Host.Outcome State Fault Refusal} {p : State → Bool} (h : leads o p = true) :
    ∃ t, o = .next t ∧ p t = true := by
  cases o with
  | next t => exact ⟨t, rfl, h⟩
  | fault f => cases h
  | refused r => cases h

/-- The error registers, the cursor and the state after a fault entry. -/
def raised (k : ErrKind) (o : Nat) (t : State) : Bool :=
  t.err == ⟨k, o⟩ && t.rd.offset == o && t.fsm.state == .error

/-! ## Ill-formed terms are refused by `Instr.wf` -/

theorem test_wf_takeField : (Instr.cmdTakeField 17).wf = false := by decide
theorem test_wf_takeCode : (Instr.cmdTakeCode 17).wf = false := by decide
theorem test_wf_peekField : (Instr.cmdPeekField 17).wf = false := by decide
theorem test_wf_peekCode : (Instr.cmdPeekCode 17).wf = false := by decide
theorem test_wf_discard : (Instr.cmdDiscard 17).wf = false := by decide
theorem test_wf_hasBits : (Instr.cmdHasBits 17).wf = false := by decide
theorem test_wf_startsWith : (Instr.cmdStartsWith []).wf = false ∧
    (Instr.cmdStartsWith (List.replicate 17 true)).wf = false := by decide
theorem test_wf_appendBackref : (Instr.cmdAppendBackref 0).wf = false ∧ (Instr.cmdAppendBackref 32769).wf = false := by
  decide
theorem test_wf_build : (Instr.cmdBuild (List.replicate 289 0)).wf = false := by decide +kernel

/-! ## Decoding: words written out from 30_encoding -/

/-- R301: the first byte is the high one, CMF 0x78 and FLG 0x9C. -/
theorem test_decode_zlibHeader : decode .zlibHdr16 0b0111100010011100 .zero = .ok (.zlibHeader 0x78 0x9C) := by decide

/-- R302: bit 0 is BFINAL, bits 2..1 are BTYPE. -/
theorem test_decode_blockHeaders :
    [0b000, 0b001, 0b010, 0b011, 0b100, 0b101, 0b110, 0b111].map (fun w => (decode .blockHdr3 w .zero).toOption) =
      [some (.blockStored 0), some (.blockStored 1), some (.blockFixed 0), some (.blockFixed 1), some (.blockDynamic 0),
       some (.blockDynamic 1), some (.blockInvalid 0), some (.blockInvalid 1)] := by decide

/-- R303: LEN 13 in the low half, NLEN 0xFFF2 in the high half. -/
theorem test_decode_storedHeader :
    decode .storedHdr32 0b11111111111100100000000000001101 .zero = .ok (.storedHeader 13 0xFFF2) := by decide

/-- R303. -/
theorem test_decode_storedByte : decode .byte8 0b01001000 .zero = .ok (.storedByte 0x48) := by decide

/-- R304: HLIT 1, HDIST 2, HCLEN 8. -/
theorem test_decode_dynHeader : decode .dynHdr14 0b10000001000001 .zero = .ok (.dynHeader 1 2 8) := by decide

/-- R304. -/
theorem test_decode_cll : decode .cll3 0b110 .zero = .ok (.cll 6) := by decide

/-- R343, R824. -/
theorem test_decode_clSymbols :
    [0b00000, 0b01111, 0b10000, 0b10001, 0b10010, 0b10011, 0b10100, 0b10111, 0b11000, 0b11111].map
        (fun w => (decode .clSym5 w .zero).toOption) =
      [some (.clLit 0), some (.clLit 15), some .rep16, some .zero17, some .zero18, some .clInvalid19, some (.clInvalid20 0),
       some (.clInvalid20 3), some (.clInvalid24 0), some (.clInvalid24 7)] := by decide

/-- R341. -/
theorem test_decode_literals :
    [0b000000000, 0b011111111, 0b100000000, 0b100011110, 0b100011111].map (fun w => (decode .llSym9 w .zero).toOption) =
      [some (.lit 0), some (.lit 0xFF), some .eob, some (.llInvalid 0), some (.llInvalid 1)] := by decide

/-- R341. -/
theorem test_decode_lengths :
   [(0b100000001, .len257), (0b100000010, .len258), (0b100000011, .len259), (0b100000100, .len260),
    (0b100000101, .len261), (0b100000110, .len262), (0b100000111, .len263), (0b100001000, .len264),
    (0b100001001, .len265), (0b100001010, .len266), (0b100001011, .len267), (0b100001100, .len268),
    (0b100001101, .len269), (0b100001110, .len270), (0b100001111, .len271), (0b100010000, .len272),
    (0b100010001, .len273), (0b100010010, .len274), (0b100010011, .len275), (0b100010100, .len276),
    (0b100010101, .len277), (0b100010110, .len278), (0b100010111, .len279), (0b100011000, .len280),
    (0b100011001, .len281), (0b100011010, .len282), (0b100011011, .len283), (0b100011100, .len284),
    (0b100011101, .len285)].all
      (fun p : Nat × Instr => (decode .llSym9 p.1 .zero).toOption == some p.2) = true := by decide +kernel

/-- R342. -/
theorem test_decode_distances :
   [(0b00000, .dist0), (0b00001, .dist1), (0b00010, .dist2), (0b00011, .dist3), (0b00100, .dist4), (0b00101, .dist5),
    (0b00110, .dist6), (0b00111, .dist7), (0b01000, .dist8), (0b01001, .dist9), (0b01010, .dist10),
    (0b01011, .dist11), (0b01100, .dist12), (0b01101, .dist13), (0b01110, .dist14), (0b01111, .dist15),
    (0b10000, .dist16), (0b10001, .dist17), (0b10010, .dist18), (0b10011, .dist19), (0b10100, .dist20),
    (0b10101, .dist21), (0b10110, .dist22), (0b10111, .dist23), (0b11000, .dist24), (0b11001, .dist25),
    (0b11010, .dist26), (0b11011, .dist27), (0b11100, .dist28), (0b11101, .dist29)].all
      (fun p : Nat × Instr => (decode .dSym5 p.1 .zero).toOption == some p.2) = true := by decide +kernel

/-- R342. -/
theorem test_decode_invalid_distances :
    decode .dSym5 0b11110 .zero = .ok (.dInvalid 0) ∧ decode .dSym5 0b11111 .zero = .ok (.dInvalid 1) := by decide

/-- R370, R371: each operation code with an operand on the port. -/
theorem test_decode_commands :
    let port : Operand := ⟨9, [true, false], [1, 1], .d⟩
    [0b0000, 0b0001, 0b0010, 0b0011, 0b0100, 0b0101, 0b0110, 0b0111, 0b1000, 0b1001, 0b1010, 0b1011, 0b1100, 0b1101,
        0b1110, 0b1111].map (fun w => (decode .cmd4 w port).toOption) =
      [some (.cmdTakeField 9), some (.cmdTakeCode 9), some (.cmdPeekField 9), some (.cmdPeekCode 9), some (.cmdDiscard 9),
       some .cmdAlign, some (.cmdStartsWith [true, false]), some (.cmdHasBits 9), some (.cmdAppendLiteral 9),
       some (.cmdAppendBackref 9), some (.cmdLastN 9), some (.cmdWinRead 9), some (.cmdBuild [1, 1]),
       some (.cmdDecode .d), some (.cmdReserved 0), some (.cmdReserved 1)] := by decide

/-- A word with no instruction is rejected by name. -/
theorem test_decode_rejects :
    decode .llSym9 288 .zero = .error (.noSuchSymbol 288) ∧ decode .blockHdr3 8 .zero = .error (.wordTooWide .blockHdr3 8) ∧
    decode .cmd4 8 (num 256) = .error (.operandTooWide 256) := by decide

/-! ## Steps, with values from the spec's examples -/

/-- R711: `78 9C` passes, `78 9D` raises InvalidZlibHeader at 16. -/
theorem test_zlibHeader :
    leads (step (feed [0x78, 0x9C] 0 .zhdr)) (fun t => t.rd.offset == 16 && t.fsm.state == .hdr) = true ∧
    leads (step (feed [0x78, 0x9D] 0 .zhdr)) (raised .invalidZlibHeader 16) = true := by decide +kernel

/-- R712: `F3` gives BFINAL 1, BTYPE 1 and offset 3. -/
theorem test_blockFixed : leads (step (feed [0xF3] 0 .hdr)) (fun t =>
    t.rd.offset == 3 && t.fsm.bfinalR == 1 && t.fsm.btypeR == 1 && t.fsm.state == .fixedSetup) = true := by decide +kernel

/-- R810: the stream `05 00 A2 0D` starts a final DYNAMIC block. -/
theorem test_blockDynamic : leads (step (feed [0x05] 0 .hdr)) (fun t =>
    t.rd.offset == 3 && t.fsm.bfinalR == 1 && t.fsm.btypeR == 2 && t.fsm.state == .dynHdr) = true := by decide +kernel

/-- R720: the stream `01 0D 00 F2 FF` starts a final STORED block. -/
theorem test_blockStored : leads (step (feed [0x01] 0 .hdr)) (fun t =>
    t.rd.offset == 3 && t.fsm.bfinalR == 1 && t.fsm.btypeR == 0 && t.fsm.state == .storedHdr) = true := by decide +kernel

/-- R712: `07` raises InvalidBlockType at 3, and BFINAL_R keeps its value. -/
theorem test_blockInvalid : leads (step (feed [0x07] 0 .hdr)) (fun t =>
    raised .invalidBlockType 3 t && t.fsm.bfinalR == 0) = true := by decide +kernel

/-- R720: `01 0D 00 F2 FF` passes with offset 40 and STORED_REM 13; `01 00 00 00 00` raises at 40. -/
theorem test_storedHeader :
    leads (step (feed [0x01, 0x0D, 0x00, 0xF2, 0xFF] 3 .storedHdr)) (fun t =>
      t.rd.offset == 40 && t.fsm.storedRem == 13 && t.fsm.state == .storedCopy) = true ∧
    leads (step (feed [0x01, 0, 0, 0, 0] 3 .storedHdr)) (raised .uncompressedLengthMismatch 40) = true := by decide +kernel

/-- R721: the next step appends 'H' and leaves STORED_REM 12 and offset 48. -/
theorem test_storedByte :
    let s := feed [0x01, 0x0D, 0x00, 0xF2, 0xFF, 0x48] 40 .storedCopy
    leads (step { s with fsm.storedRem := 13 }) (fun t =>
      t.rd.offset == 48 && t.fsm.storedRem == 12 && t.win == ⟨[(0, 0x48)], 1, 0⟩) = true := by decide +kernel

/-- R810: in `05 00 A2 0D` bits 3 to 16 give three zero fields and offset 17. -/
theorem test_dynHeader : leads (step (feed [0x05, 0x00, 0xA2, 0x0D] 3 .dynHdr)) (fun t =>
    t.rd.offset == 17 && t.fsm.hlitR == 0 && t.fsm.hdistR == 0 && t.fsm.hclenR == 0 && t.fsm.state == .dynCll) = true := by
  decide +kernel

/-- R812: the four fields of `05 00 A2 0D` at bits 17, 20, 23 and 26 are the lengths of 16, 17, 18 and 0; the first here. -/
theorem test_cll_first : leads (step (feed [0x05, 0x00, 0xA2, 0x0D] 17 .dynCll)) (fun t =>
    t.rd.offset == 20 && t.tbl.clLen[16]? == some 1 && t.fsm.state == .dynCll) = true := by decide +kernel

/-- R812: and the last. -/
theorem test_cll_last :
    let s := feed [0x05, 0x00, 0xA2, 0x0D] 26 .dynCll
    leads (step { s with fsm.cllIdx := 3 }) (fun t =>
      t.rd.offset == 29 && t.tbl.clLen[0]? == some 3 && t.fsm.state == .dynClBuild) = true := by decide +kernel

/-- R820: with symbol 1 at '100', those bits append a length 1 and advance offset by 3. -/
theorem test_clLit :
    let s := feed [0x01] 0 .dynLens
    leads (step { s with tbl.clLen := [2, 3, 0, 0, 0, 0, 0, 0, 0, 0, 0, 0, 0, 0, 0, 0, 0, 0, 2] }) (fun t =>
      t.rd.offset == 3 && t.fsm.lens[0]? == some 1 && t.fsm.lensN == 1) = true := by decide +kernel

/-- R821: symbol 16 at bit 29 of `05 00 A2 0D` raises RepeatWithoutPrevious at 30. -/
theorem test_rep16_first : leads (step (seqAt [0x05, 0x00, 0xA2, 0x0D] 29 0)) (raised .repeatWithoutPrevious 30) = true := by
  decide +kernel

/-- R821: '0' then the bits 1,1 repeat the previous length 6 times. -/
theorem test_rep16 :
    let s := seqAt [0x06] 0 1
    leads (step { s with fsm.lens := s.fsm.lens.set 0 5 }) (fun t =>
      t.rd.offset == 3 && t.fsm.lensN == 7 && t.fsm.lens.take 8 == [5, 5, 5, 5, 5, 5, 5, 0]) = true := by decide +kernel

/-- R822: the codeword of 17 followed by 0,0,0 appends 3 zeros. -/
theorem test_zero17 : leads (step (seqAt [0x01] 0 0)) (fun t => t.rd.offset == 5 && t.fsm.lensN == 3) = true := by
  decide +kernel

/-- R823, R825: '111' with extra value 127 appends 138 zeros; in `05 00 A2 ED FF BB 01` the second repeat, at bit 39, raises
InvalidCodeLengthCount at 49. -/
theorem test_zero18 :
    leads (step (seqAt [0xFF, 0x03] 0 0)) (fun t => t.rd.offset == 10 && t.fsm.lensN == 138) = true ∧
    leads (step (seqAt [0x05, 0x00, 0xA2, 0xED, 0xFF, 0xBB, 0x01] 39 138)) (raised .invalidCodeLengthCount 49) = true := by
  decide +kernel

/-- R824: code-length symbols above 18, which no table decodes, raise InvalidSequenceSymbol after their codeword. -/
theorem test_clInvalid :
    leads (exec .clInvalid19 (feed [] 0 .dynLens)) (raised .invalidSequenceSymbol 0) = true ∧
    leads (exec (.clInvalid20 3) (feed [] 0 .dynLens)) (raised .invalidSequenceSymbol 0) = true ∧
    leads (exec (.clInvalid24 7) (feed [] 0 .dynLens)) (raised .invalidSequenceSymbol 0) = true := by decide +kernel

/-- R901: in a FIXED block the bits '110010000' append 0x90. -/
theorem test_lit : leads (step (fixedAt [0x13, 0x00] 0 .bodySym)) (fun t =>
    t.rd.offset == 9 && t.win == ⟨[(0, 0x90)], 1, 0⟩ && t.fsm.state == .bodySym) = true := by decide +kernel

/-- R902: in `03 00` the bits '0000000' at bit 3 end the block at offset 10. -/
theorem test_eob : leads (step (fixedAt [0x03, 0x00] 3 .bodySym)) (fun t =>
    t.rd.offset == 10 && t.fsm.state == .blockEnd && t.win.size == 0) = true := by decide +kernel

/-- R903: `1B 03` and `1B 07` raise SymbolDecodeError at 11. -/
theorem test_llInvalid :
    leads (step (fixedAt [0x1B, 0x03] 3 .bodySym)) (raised .symbolDecodeError 11) = true ∧
    leads (step (fixedAt [0x1B, 0x07] 3 .bodySym)) (raised .symbolDecodeError 11) = true := by decide +kernel

/-- R910 to R938, the example of each rule in order: the three input bytes (the codeword of the FIXED block, then the extra
bits), the codeword's length, and LENGTH_R. -/
def lengthExamples : List (Byte × Byte × Byte × Nat × Nat) :=
  [(0x40, 0x00, 0x00, 7, 3), (0x20, 0x00, 0x00, 7, 4), (0x60, 0x00, 0x00, 7, 5), (0x10, 0x00, 0x00, 7, 6),
   (0x50, 0x00, 0x00, 7, 7), (0x30, 0x00, 0x00, 7, 8), (0x70, 0x00, 0x00, 7, 9), (0x08, 0x00, 0x00, 7, 10),
   (0xC8, 0x00, 0x00, 7, 12), (0xA8, 0x00, 0x00, 7, 14), (0xE8, 0x00, 0x00, 7, 16), (0x98, 0x00, 0x00, 7, 18),
   (0xD8, 0x01, 0x00, 7, 22), (0xB8, 0x01, 0x00, 7, 26), (0xF8, 0x01, 0x00, 7, 30), (0x84, 0x01, 0x00, 7, 34),
   (0xC4, 0x03, 0x00, 7, 42), (0xA4, 0x03, 0x00, 7, 50), (0xE4, 0x03, 0x00, 7, 58), (0x94, 0x03, 0x00, 7, 66),
   (0xD4, 0x07, 0x00, 7, 82), (0xB4, 0x07, 0x00, 7, 98), (0xF4, 0x07, 0x00, 7, 114), (0x03, 0x0F, 0x00, 8, 130),
   (0x83, 0x1F, 0x00, 8, 162), (0x43, 0x1F, 0x00, 8, 194), (0xC3, 0x1F, 0x00, 8, 226), (0x23, 0x1F, 0x00, 8, 258),
   (0xA3, 0x00, 0x00, 8, 258)]

/-- The step of BODY_SYM keeps a length symbol: '0000001' is 257, '11000101' is 285. -/
theorem test_lengths_kept :
    leads (step (fixedAt [0x40, 0x00] 0 .bodySym)) (fun t =>
      t.rd.offset == 7 && t.fsm.symR.toNat == 257 && t.fsm.state == .lenExtra) = true ∧
    leads (step (fixedAt [0xA3, 0x00] 0 .bodySym)) (fun t =>
      t.rd.offset == 8 && t.fsm.symR.toNat == 285 && t.fsm.state == .lenExtra) = true := by decide +kernel

/-- The step of LEN_EXTRA gives each length. -/
theorem test_lengths : lengthExamples.mapIdx (fun i r =>
    let s := fixedAt [r.1, r.2.1, r.2.2.1] r.2.2.2.1 .lenExtra
    leads (step { s with fsm.symR := BitVec.ofNat 9 (257 + i) }) (fun t =>
      t.fsm.lengthR.toNat == r.2.2.2.2 && t.fsm.state == .distSym)) = List.replicate 29 true := by decide +kernel

/-- R950 to R979, the example of each rule in order, with DIST_R. -/
def distanceExamples : List (Byte × Byte × Byte × Nat × Nat) :=
  [(0x00, 0x00, 0x00, 5, 1), (0x10, 0x00, 0x00, 5, 2), (0x08, 0x00, 0x00, 5, 3), (0x18, 0x00, 0x00, 5, 4),
   (0x24, 0x00, 0x00, 5, 6), (0x34, 0x00, 0x00, 5, 8), (0x6C, 0x00, 0x00, 5, 12), (0x7C, 0x00, 0x00, 5, 16),
   (0xE2, 0x00, 0x00, 5, 24), (0xF2, 0x00, 0x00, 5, 32), (0xEA, 0x01, 0x00, 5, 48), (0xFA, 0x01, 0x00, 5, 64),
   (0xE6, 0x03, 0x00, 5, 96), (0xF6, 0x03, 0x00, 5, 128), (0xEE, 0x07, 0x00, 5, 192), (0xFE, 0x07, 0x00, 5, 256),
   (0xE1, 0x0F, 0x00, 5, 384), (0xF1, 0x0F, 0x00, 5, 512), (0xE9, 0x1F, 0x00, 5, 768), (0xF9, 0x1F, 0x00, 5, 1024),
   (0xE5, 0x3F, 0x00, 5, 1536), (0xF5, 0x3F, 0x00, 5, 2048), (0xED, 0x7F, 0x00, 5, 3072),
   (0xFD, 0x7F, 0x00, 5, 4096), (0xE3, 0xFF, 0x00, 5, 6144), (0xF3, 0xFF, 0x00, 5, 8192),
   (0xEB, 0xFF, 0x01, 5, 12288), (0xFB, 0xFF, 0x01, 5, 16384), (0xE7, 0xFF, 0x03, 5, 24576),
   (0xF7, 0xFF, 0x03, 5, 32768)]

/-- The step of DIST_SYM keeps each distance symbol. -/
theorem test_distances_kept : distanceExamples.mapIdx (fun i r =>
    leads (step (fixedAt [r.1, r.2.1, r.2.2.1] 0 .distSym)) (fun t =>
      t.rd.offset == r.2.2.2.1 && t.fsm.symR.toNat == i && t.fsm.state == .distExtra)) = List.replicate 30 true := by
  decide +kernel

/-- The step of DIST_EXTRA gives each distance, valid when size is at least that distance. -/
theorem test_distances : distanceExamples.mapIdx (fun i r =>
    let s := fixedAt [r.1, r.2.1, r.2.2.1] r.2.2.2.1 .distExtra
    leads (step { s with fsm.symR := BitVec.ofNat 9 i, win.size := r.2.2.2.2, fsm.lengthR := 7 }) (fun t =>
      t.fsm.distR.toNat == r.2.2.2.2 && t.fsm.copyRem == 7 && t.fsm.state == .copy)) = List.replicate 30 true := by
  decide +kernel

/-- R943: in `4B 04 3E` the bits '11110' at bit 18 raise SymbolDecodeError at 23; symbol 31 does the same. -/
theorem test_dInvalid :
    leads (step (fixedAt [0x4B, 0x04, 0x3E] 18 .distSym)) (raised .symbolDecodeError 23) = true ∧
    leads (step (fixedAt [0x1F] 0 .distSym)) (raised .symbolDecodeError 5) = true := by decide +kernel

/-- R980: in `4B 04 42 00` distance 2 with size 1 raises InvalidBackReference at 23. -/
theorem test_distance_check :
    let s := fixedAt [0x4B, 0x04, 0x42, 0x00] 23 .distExtra
    leads (step { s with fsm.symR := 1, win := ⟨[(0, 0x61)], 1, 0⟩ }) (raised .invalidBackReference 23) = true := by
  decide +kernel

/-- R981: one COPY step of "ab" then MATCH len=6 dist=2. -/
theorem test_copy :
    let s := fixedAt [] 0 .copy
    leads (step { s with fsm.distR := 2, fsm.copyRem := 6, win := ⟨[(0, 0x61), (1, 0x62)], 2, 0⟩ }) (fun t =>
      t.win == ⟨[(0, 0x61), (1, 0x62), (2, 0x61)], 3, 0⟩ && t.fsm.copyRem == 5 && t.fsm.state == .copy) = true := by
  decide +kernel

/-- R410: TakeField(3) = 5 with offset 3, TakeField(16) = 0x0FB5. -/
theorem test_cmdTakeField :
    leads (step (cmdAt 0 0 (num 3))) (fun t => t.host.response == .value 5 && t.rd.offset == 3) = true ∧
    leads (step (cmdAt 0 0 (num 16))) (fun t => t.host.response == .value 0x0FB5) = true := by decide +kernel

/-- R411: at offset 0 TakeCode(4) = 10. -/
theorem test_cmdTakeCode : leads (step (cmdAt 0 1 (num 4))) (fun t =>
    t.host.response == .value 10 && t.rd.offset == 4) = true := by decide +kernel

/-- R412: PeekField(3) = 5 and offset stays 0. -/
theorem test_cmdPeekField : leads (step (cmdAt 0 2 (num 3))) (fun t =>
    t.host.response == .value 5 && t.rd.offset == 0) = true := by decide +kernel

/-- R413: PeekCode(4) = 10 and offset stays 0. -/
theorem test_cmdPeekCode : leads (step (cmdAt 0 3 (num 4))) (fun t =>
    t.host.response == .value 10 && t.rd.offset == 0) = true := by decide +kernel

/-- R414: Discard(5) sets offset 5. -/
theorem test_cmdDiscard : leads (step (cmdAt 0 4 (num 5))) (fun t =>
    t.host.response == .completed && t.rd.offset == 5) = true := by decide +kernel

/-- R415: at offset 3 Align() sets offset 8, at offset 8 it leaves it. -/
theorem test_cmdAlign :
    leads (step (cmdAt 3 5 .zero)) (fun t => t.rd.offset == 8) = true ∧
    leads (step (cmdAt 8 5 .zero)) (fun t => t.rd.offset == 8) = true := by decide +kernel

/-- R416: StartsWith('101') = true, StartsWith('11') = false. -/
theorem test_cmdStartsWith :
    leads (step (cmdAt 0 6 ⟨0, [true, false, true], [], .cl⟩)) (fun t => t.host.response == .flag true) = true ∧
    leads (step (cmdAt 0 6 ⟨0, [true, true], [], .cl⟩)) (fun t => t.host.response == .flag false) = true := by decide +kernel

/-- R417: with the input ended at offset 10, HasBits(6) = true and HasBits(7) = false. -/
theorem test_cmdHasBits :
    let s := fun n => { cmdAt 10 7 (num n) with rd := ⟨[0xB5, 0x0F], 16, 10, true⟩ }
    leads (step (s 6)) (fun t => t.host.response == .flag true) = true ∧
    leads (step (s 7)) (fun t => t.host.response == .flag false && t.fsm.state == .idle) = true := by decide +kernel

/-- R501: from size 0, Append(0x61) gives WIN[0] = 0x61 and size 1. -/
theorem test_cmdAppendLiteral : leads (step (cmdAt 0 8 (num 0x61))) (fun t => t.win == ⟨[(0, 0x61)], 1, 0⟩) = true := by
  decide +kernel

/-- R502: after 'a' AppendBackref(1) appends 'a'; from size 1 AppendBackref(2) raises InvalidBackReference. -/
theorem test_cmdAppendBackref :
    let s := fun d => { cmdAt 0 9 (num d) with win := ⟨[(0, 0x61)], 1, 0⟩ }
    leads (step (s 1)) (fun t => t.win == ⟨[(0, 0x61), (1, 0x61)], 2, 0⟩) = true ∧
    leads (step (s 2)) (raised .invalidBackReference 0) = true := by decide +kernel

/-- R503: after 'a','b','c', LastN(2) = ['b','c']. -/
theorem test_cmdLastN : leads (step (abc (cmdAt 0 10 (num 2)))) (fun t => t.host.response == .bytes [0x62, 0x63]) = true := by
  decide +kernel

/-- R504: after 'a','b','c', WinRead(0) = 'a' and WinRead(3) is refused. -/
theorem test_cmdWinRead :
    leads (step (abc (cmdAt 0 11 (num 0)))) (fun t => t.host.response == .byte 0x61) = true ∧
    leads (step (abc (cmdAt 0 11 (num 3)))) (fun t => t.host.response == .rangeError) = true := by decide +kernel

/-- 42_huffman, the construction example: A to E are 010 to 110, F is 00, G and H are 1110 and 1111. -/
theorem test_cmdBuild : leads (step (cmdAt 0 12 ⟨0, [], exampleLens, .cl⟩)) (fun t => t.host.response ==
    .table [⟨3, 2, 0⟩, ⟨3, 3, 1⟩, ⟨3, 4, 2⟩, ⟨3, 5, 3⟩, ⟨3, 6, 4⟩, ⟨2, 0, 5⟩, ⟨4, 14, 6⟩, ⟨4, 15, 7⟩]) = true := by
  decide +kernel

/-- R610: with that table the bits '1110' decode to symbol 6 with offset + 4. -/
theorem test_cmdDecode :
    let s := cmdAt 0 13 ⟨0, [], [], .d⟩
    leads (step { s with rd.inbuf := [0x07, 0], tbl.dLen := exampleLens, tbl.dN := 8 }) (fun t =>
      t.host.response == .symbol 6 && t.rd.offset == 4) = true := by decide +kernel

/-- R371. -/
theorem test_cmdReserved : step (cmdAt 0 14 .zero) = .refused .reservedCommand ∧
    step (cmdAt 0 15 .zero) = .refused .reservedCommand := ⟨rfl, rfl⟩

/-- R710: START in IDLE with ZLIB_EN goes to ZHDR, without it to HDR. -/
theorem test_start :
    let s := fun v : BitVec 64 => { feed [] 0 .idle with host := { HostSide.quiet with actions := [.write .ctrl v] } }
    leads (step (s 3)) (fun t => t.fsm.state == .zhdr && t.cfg.zlib) = true ∧
    leads (step (s 1)) (fun t => t.fsm.state == .hdr && !t.cfg.zlib) = true := by decide +kernel

/-- R1201: after a reset that cuts off a held command in_req is 0. -/
theorem test_reset_drops_command :
    let s := cmdAt 16 0 (num 1)
    inReq s = true ∧ leads (step { s with host.actions := [.reset] }) (fun t =>
      !inReq t && t.fsm.state == .idle && t.rd.inbuf == []) = true := by decide +kernel

/-- R1120: a byte delivered to the pending request of HDR is taken before an end of input that follows it. -/
theorem test_deliver_then_end :
    let s := feed [] 0 .hdr
    leads (step { s with host.actions := [.deliver 0xF3, .endInput] }) (fun t =>
      t.rd.inbuf == [0xF3] && leads (step t) fun u => u.rd.srcEnd && leads (step u) fun v => v.rd.offset == 3) = true := by
  decide +kernel

/-- R370: a command that the testbench issues runs in the next step. -/
theorem test_issue :
    let s := feed [0xB5, 0x0F] 0 .idle
    leads (step { s with host.actions := [.issue ⟨0, num 3⟩] }) (fun t =>
      leads (step t) fun u => u.host.response == .value 5) = true := by decide +kernel

/-- R1203: ZLIB_EN and then START, each field written alone, start with the zlib header. -/
theorem test_start_fields :
    let s := feed [] 0 .idle
    leads (step { s with host.actions := [.setZlib true, .start] }) (fun t =>
      t.cfg.zlib && leads (step t) fun u => u.cfg.zlib && u.fsm.state == .zhdr) = true := by decide +kernel

/-- R741: with four bytes unflushed FLUSH offers the first, not as the last of its chunk. -/
theorem test_flush :
    let s := feed [] 0 .flush
    leads (step { s with fsm.retR := .bodySym, win := ⟨[(0, 0x48), (1, 0x65), (2, 0x6C), (3, 0x6C)], 4, 0⟩,
                         host.sinkReady := true }) (fun t =>
      t.host.emitted == [⟨0x48, false⟩] && t.win.flushed == 1 && t.fsm.state == .flush) = true := by decide +kernel

/-- R813: the lengths 1, 1, 1 of 16, 17 and 18 in `05 00 92 00` raise OversubscribedCode at 29. -/
theorem test_oversubscribed :
    let s := feed [0x05, 0x00, 0x92, 0x00] 29 .dynClBuild
    leads (step { s with tbl.clLen := [0, 0, 0, 0, 0, 0, 0, 0, 0, 0, 0, 0, 0, 0, 0, 0, 1, 1, 1] })
      (raised .oversubscribedCode 29) = true := by decide +kernel

/-! ## Witnesses: states and operands that meet the hypotheses of each obligation, one for each clause -/

/-- A small sound state of a session: 'a','b','c' produced, the FSM in BLOCK_END. -/
def live : State :=
  { abc (feed [0x03, 0x00] 10 .blockEnd) with host := { HostSide.quiet with sinkReady := true, sourceEnds := true } }

theorem live_sound : Sound live where
  readbits := rfl
  cursor := by decide
  memory := by decide
  window := by
    intro j h _
    have : j < 3 := h
    interval_cases j <;> exact ⟨_, rfl⟩
  clLen := rfl
  llLen := List.length_replicate
  dLen := rfl
  lens := List.length_replicate
  threshold := by decide

theorem live_session : Session live where
  toSound := live_sound
  noCommands := rfl
  noIssue := fun _ h => by cases h
  flushedLe := by decide
  idle := fun h => by cases h
  flushing := fun h => by cases h
  notFlushing := fun _ => by decide
  done := fun h => by cases h
  cll := fun h => by cases h
  sequence := fun h => by revert h; decide
  clTable := fun h => by cases h
  bodyTables := fun h => by revert h; decide
  stored := fun h => by cases h
  lengthSym := fun h => by cases h
  length := fun h => by revert h; decide
  distSym := fun h => by cases h
  copying := fun h => by cases h
  emittedCount := rfl
  emittedBytes := fun j h => by cases h

/-- Next-state hypotheses: a state of which `p` holds and which steps to one of which `q` holds. -/
theorem steps {s : State} {p q : State → Bool} (hp : p s = true) (hq : leads (step s) q = true) :
    ∃ s t, p s = true ∧ step s = .next t ∧ q t = true :=
  let ⟨t, h, hq⟩ := leads_spec hq
  ⟨s, t, hp, h, hq⟩

theorem witness_DecodeOfEncodeIsIdentity :
    (Instr.cmdTakeField 0).wf = true ∧ (Instr.cmdTakeCode 16).wf = true ∧ (Instr.cmdStartsWith [true]).wf = true ∧
    (Instr.cmdStartsWith (List.replicate 16 true)).wf = true ∧ (Instr.cmdAppendBackref 1).wf = true ∧
    (Instr.cmdAppendBackref 32768).wf = true ∧ (Instr.cmdBuild (List.replicate 288 0)).wf = true ∧
    (Instr.storedHeader 0xFFFF 0).wf = true := by decide +kernel

theorem witness_EncodeOfDecodeIsIdentity : ∃ f w port i, decode f w port = .ok i := ⟨.llSym9, 287, .zero, _, rfl⟩

theorem witness_PackedBitsAreReadInOrder : ∃ (p : Bits) (s : State) (k : Nat) (b : Bool),
    s.rd.inbuf = packBits p.length p ∧ p[k]? = some b :=
  ⟨[true, false, true, false, false, false, false, false, true], feed [0x05, 0x01] 0 .hdr, 8, true, by decide, by decide⟩

/-- The ends of each range. -/
theorem witness_FixedCodewords : (0 ≤ 143 ∧ 143 ≤ 143) ∧ (144 ≤ 144 ∧ 255 ≤ 255) ∧ (256 ≤ 256 ∧ 279 ≤ 279) ∧
    (280 ≤ 280 ∧ 287 ≤ 287) ∧ 0 ≤ 31 ∧ 31 ≤ 31 := by decide

theorem witness_StepRunsFetchedInstruction :
    (∃ s i, nextElement s = some (.ok i) ∧ s.host.actions = []) ∧
    (∃ s i rest, nextElement s = some (.ok i) ∧ s.host.actions = .pass :: rest) :=
  ⟨⟨feed [0xF3] 0 .hdr, .blockFixed 1, by decide +kernel, rfl⟩,
   ⟨{ feed [0xF3] 0 .hdr with host := { HostSide.quiet with actions := [.pass] } }, .blockFixed 1, [],
    by decide +kernel, rfl⟩⟩

/-- A header word, a padded STORED header, a symbol, and a command. -/
theorem witness_StepRunsEncodedInstruction :
    (∃ s i, i.wf = true ∧ s.host.actions = [] ∧ sessionOver s = false ∧ s.host.commands = [] ∧
      streamFormat s = some (encode i).fmt ∧ standsAt (encode i) s ∧ (encode i).fmt = .blockHdr3) ∧
    (∃ s i, i.wf = true ∧ s.host.actions = [] ∧ sessionOver s = false ∧ s.host.commands = [] ∧
      streamFormat s = some (encode i).fmt ∧ standsAt (encode i) s ∧ (encode i).fmt = .storedHdr32) ∧
    (∃ s i, i.wf = true ∧ s.host.actions = [] ∧ sessionOver s = false ∧ s.host.commands = [] ∧
      streamFormat s = some (encode i).fmt ∧ standsAt (encode i) s ∧ (encode i).fmt = .llSym9) ∧
    (∃ s i, i.wf = true ∧ s.host.actions = [] ∧ sessionOver s = false ∧ (encode i).fmt = .cmd4 ∧
      standsAt (encode i) s) :=
  ⟨⟨feed [0xF3] 0 .hdr, .blockFixed 1, rfl, rfl, rfl, rfl, rfl, ⟨_, rfl, by decide, by decide⟩, rfl⟩,
   ⟨feed [0x01, 0x0D, 0x00, 0xF2, 0xFF] 3 .storedHdr, .storedHeader 13 0xFFF2, rfl, rfl, rfl, rfl, rfl,
    ⟨by decide, by decide +kernel⟩, rfl⟩,
   ⟨fixedAt [0x03, 0x00] 3 .bodySym, .eob, rfl, rfl, rfl, rfl, rfl,
    ⟨[false, false, false, false, false, false, false], by decide +kernel, by decide, by decide⟩, rfl⟩,
   ⟨cmdAt 0 0 (num 16), .cmdTakeField 16, rfl, rfl, rfl, rfl, ⟨_, _, rfl, rfl, rfl⟩⟩⟩

theorem witness_StepRunsKeptSymbol :
    (∃ s : State, s.host.actions = [] ∧ s.host.commands = [] ∧ s.fsm.symR.toNat = 285 ∧ s.fsm.state = .lenExtra ∧
      (Instr.len285, 285, 0, 258) ∈ lengthRows) ∧
    (∃ s : State, s.host.actions = [] ∧ s.host.commands = [] ∧ s.fsm.symR.toNat = 0 ∧ s.fsm.state = .distExtra ∧
      (Instr.dist0, 0, 0, 1) ∈ distanceRows) :=
  ⟨⟨{ feed [] 0 .lenExtra with fsm.symR := 285 }, rfl, rfl, rfl, rfl, by decide⟩,
   ⟨feed [] 0 .distExtra, rfl, rfl, rfl, rfl, by decide⟩⟩

theorem witness_ZlibHeaderChecksModulo31 :
    ((0x78 : BitVec 8).toNat * 256 + (0x9C : BitVec 8).toNat) % 31 = 0 ∧
    ((0x78 : BitVec 8).toNat * 256 + (0x9D : BitVec 8).toNat) % 31 ≠ 0 := by decide

theorem witness_BlockHeadersDispatch : (Instr.blockDynamic 1, (2 : BitVec 2), FsmState.dynHdr) ∈
    [(Instr.blockStored 1, (0 : BitVec 2), FsmState.storedHdr), (.blockFixed 1, 1, .fixedSetup),
      (.blockDynamic 1, 2, .dynHdr)] := by decide

theorem witness_InvalidBlockTypeRaises : (6 < 8 ∧ 6 / 2 = 3) ∧ 7 < 8 ∧ 7 / 2 = 3 := by decide

theorem witness_StoredHeaderChecksLength :
    (13 : BitVec 16).toNat + (0xFFF2 : BitVec 16).toNat = 0xFFFF ∧
    (0xFFFF : BitVec 16).toNat + (1 : BitVec 16).toNat ≠ 0xFFFF := by decide

/-- The first and the last position of ORDER. -/
theorem witness_CllFollowsPermutation :
    (∃ s : State, orderList[s.fsm.cllIdx.toNat]? = some 16 ∧ s.tbl.clLen.length = 19) ∧
    (∃ s : State, orderList[s.fsm.cllIdx.toNat]? = some 15 ∧ s.tbl.clLen.length = 19) :=
  ⟨⟨State.reset, rfl, rfl⟩, ⟨{ State.reset with fsm.cllIdx := 18 }, rfl, rfl⟩⟩

theorem witness_ClLitWritesOneLength :
    ∃ s : State, s.fsm.lensN.toNat = 319 ∧ s.fsm.lensN.toNat < 320 ∧ s.fsm.lens.length = 320 :=
  ⟨{ State.reset with fsm.lensN := 319 }, rfl, by decide, List.length_replicate⟩

/-- A run that just fits the total 258, and one that is one too long. -/
theorem witness_RepeatsWriteRunOrOvershoot :
    (∃ s : State, (Instr.rep16, 16, 2, 3, 0) ∈ repeatRows s ∧ s.fsm.lensN ≠ 0 ∧ s.fsm.lens.length = 320 ∧
      s.rd.offset + codeLength s.clLens 16 + 2 ≤ s.rd.readbits ∧
      s.fsm.lensN.toNat + (3 + FieldSum s (s.rd.offset + codeLength s.clLens 16) 2) =
        s.fsm.hlitR.toNat + 257 + s.fsm.hdistR.toNat + 1) ∧
    (∃ s : State, (Instr.zero17, 17, 3, 3, 0) ∈ repeatRows s ∧ s.fsm.lens.length = 320 ∧
      s.rd.offset + codeLength s.clLens 17 + 3 ≤ s.rd.readbits ∧
      s.fsm.hlitR.toNat + 257 + s.fsm.hdistR.toNat + 1 <
        s.fsm.lensN.toNat + (3 + FieldSum s (s.rd.offset + codeLength s.clLens 17) 3)) :=
  ⟨⟨seqAt [0x00] 0 255, by decide +kernel, by decide, List.length_replicate, by decide, by decide +kernel⟩,
   ⟨seqAt [0x01] 0 256, by decide +kernel, List.length_replicate, by decide, by decide +kernel⟩⟩

theorem witness_RepeatWithoutPreviousRaises : State.reset.fsm.lensN = 0 := rfl

theorem witness_MatchSymbolsAreKept :
    ((Instr.len257, 257, 0, 3) ∈ lengthRows ∧ (feed [] 0 .bodySym).fsm.state ≠ .lenExtra) ∧
    (Instr.dist29, 29, 13, 24577) ∈ distanceRows ∧ (feed [] 0 .distSym).fsm.state ≠ .distExtra := by decide

theorem witness_LengthExtraAddsBase : ∃ s : State, (Instr.len284, 284, 5, 227) ∈ lengthRows ∧ s.fsm.state = .lenExtra ∧
    s.rd.offset + 5 ≤ s.rd.readbits := ⟨feed [0x1F] 0 .lenExtra, by decide, rfl, by decide⟩

/-- The distance equal to size, and one above it. -/
theorem witness_DistanceExtraChecksSize :
    (∃ s : State, (Instr.dist0, 0, 0, 1) ∈ distanceRows ∧ s.fsm.state = .distExtra ∧ s.rd.offset + 0 ≤ s.rd.readbits ∧
      1 + FieldSum s s.rd.offset 0 = s.win.size) ∧
    (∃ s : State, (Instr.dist4, 4, 1, 5) ∈ distanceRows ∧ s.fsm.state = .distExtra ∧ s.rd.offset + 1 ≤ s.rd.readbits ∧
      s.win.size < 5 + FieldSum s s.rd.offset 1) :=
  ⟨⟨{ feed [] 0 .distExtra with win := ⟨[(0, 0x61)], 1, 0⟩ }, by decide, rfl, by decide, by decide⟩,
   ⟨abc (feed [0x01] 0 .distExtra), by decide, rfl, by decide, by decide +kernel⟩⟩

/-- A Decode that answers a symbol. -/
theorem decoded {r : Run (Nat × State)} {n : Nat} (h : r.toOption.map Prod.fst = some n) : ∃ t, r = .ok (n, t) := by
  match r, h with
  | .ok (m, t), h => exact ⟨t, by simpa [Except.toOption] using h⟩

theorem witness_InvalidSymbolsRaise :
    ∃ (s t : State), s.tbl.clLen.length = 19 ∧ decodeWith s.clLens s = .ok (18, t) :=
  let ⟨t, h⟩ := decoded (r := decodeWith (seqAt [0x07] 0 0).clLens (seqAt [0x07] 0 0)) (n := 18) (by decide +kernel)
  ⟨seqAt [0x07] 0 0, t, rfl, h⟩

theorem witness_TakeAndPeekAnswerValue : ∃ s : State, (16 : Nat) ≤ 16 ∧ s.rd.offset + 16 ≤ s.rd.readbits :=
  ⟨feed [0xB5, 0x0F] 0 .idle, by decide, by decide⟩

/-- The last cursor before a boundary, and a boundary at the end of the input. -/
theorem witness_DiscardAndAlignMoveCursor :
    (∃ s : State, (16 : Nat) ≤ 16 ∧ s.rd.offset + 16 ≤ s.rd.readbits) ∧
    (∃ s : State, s.rd.offset = 15 ∧ s.rd.offset ≤ s.rd.readbits ∧ s.rd.readbits % 8 = 0) ∧
    (∃ s : State, s.rd.offset = 16 ∧ s.rd.offset ≤ s.rd.readbits ∧ s.rd.readbits % 8 = 0) :=
  ⟨⟨feed [0xB5, 0x0F] 0 .idle, by decide, by decide⟩, ⟨feed [0xB5, 0x0F] 15 .idle, rfl, by decide, rfl⟩,
   ⟨feed [0xB5, 0x0F] 16 .idle, rfl, by decide, rfl⟩⟩

theorem witness_ProbesAnswerWithoutFailing :
    (∃ (s : State) (p : Bits), 1 ≤ p.length ∧ p.length = 16 ∧ s.rd.offset + p.length ≤ s.rd.readbits) ∧
    (∃ (s : State) (p : Bits), p.length = 1 ∧ s.rd.readbits < s.rd.offset + p.length ∧ s.rd.srcEnd = true) ∧
    (∃ (s : State) (p : Bits), p.length = 1 ∧ s.rd.readbits < s.rd.offset + p.length ∧ s.rd.srcEnd = false) ∧
    (∃ (s : State) (n : Nat), n = 16 ∧ n ≤ 16 ∧ s.rd.offset + n ≤ s.rd.readbits) ∧
    (∃ (s : State) (n : Nat), n = 1 ∧ n ≤ 16 ∧ s.rd.readbits < s.rd.offset + n ∧ s.rd.srcEnd = true) ∧
    (∃ (s : State) (n : Nat), n = 1 ∧ n ≤ 16 ∧ s.rd.readbits < s.rd.offset + n ∧ s.rd.srcEnd = false) :=
  ⟨⟨feed [0xB5, 0x0F] 0 .idle, List.replicate 16 true, by decide, by decide, by decide⟩,
   ⟨{ feed [] 0 .idle with rd.srcEnd := true }, [true], rfl, by decide, rfl⟩, ⟨feed [] 0 .idle, [true], rfl, by decide, rfl⟩,
   ⟨feed [0xB5, 0x0F] 0 .idle, 16, rfl, by decide, by decide⟩,
   ⟨{ feed [] 0 .idle with rd.srcEnd := true }, 1, rfl, by decide, by decide, rfl⟩,
   ⟨feed [] 0 .idle, 1, rfl, by decide, by decide, rfl⟩⟩

/-- One bit short, for a command and for each kind of extra bits. -/
theorem witness_MissingBitsHoldOrRaise :
    (∃ s : State, Instr.cmdTakeField 16 ∈ [Instr.cmdTakeField 16, .cmdTakeCode 16, .cmdPeekField 16, .cmdPeekCode 16,
      .cmdDiscard 16] ∧ s.rd.readbits < s.rd.offset + 16 ∧ s.rd.srcEnd = false) ∧
    (∃ s : State, (Instr.len265, 265, 1, 11) ∈ lengthRows ∧ s.fsm.state = .lenExtra ∧ s.rd.readbits < s.rd.offset + 1 ∧
      s.rd.srcEnd = true) ∧
    (∃ s : State, (Instr.dist29, 29, 13, 24577) ∈ distanceRows ∧ s.fsm.state = .distExtra ∧
      s.rd.readbits < s.rd.offset + 13) ∧
    (∃ s : State, (Instr.zero18, 18, 7, 11, 0) ∈ repeatRows s ∧
      s.rd.readbits < s.rd.offset + codeLength s.clLens 18 + 7) ∧
    (∃ s : State, (Instr.rep16, 16, 2, 3, 0) ∈ repeatRows s ∧ s.fsm.lensN ≠ 0 ∧
      s.rd.readbits < s.rd.offset + codeLength s.clLens 16 + 2) :=
  ⟨⟨feed [0xB5, 0x0F] 1 .idle, by decide, by decide, rfl⟩,
   ⟨{ feed [] 0 .lenExtra with rd.srcEnd := true }, by decide, rfl, by decide, rfl⟩,
   ⟨feed [0xFF] 0 .distExtra, by decide, rfl, by decide⟩, ⟨seqAt [0xFF] 0 0, by decide +kernel, by decide +kernel⟩,
   ⟨seqAt [0x06] 6 1, by decide +kernel, by decide, by decide +kernel⟩⟩

/-- A first field and a later one, and the two halves of a STORED header after its padding. -/
theorem witness_TruncatedFieldsHoldOrRaise :
    (∃ s : State, s.host.actions = [] ∧ s.host.commands = [] ∧ s.fsm.state = .hdr ∧ s.rd.offset + 0 ≤ s.rd.readbits ∧
      s.rd.readbits < s.rd.offset + 0 + 1 ∧ s.rd.srcEnd = false) ∧
    (∃ s : State, s.host.actions = [] ∧ s.host.commands = [] ∧ s.fsm.state = .zhdr ∧ s.rd.offset + 8 ≤ s.rd.readbits ∧
      s.rd.readbits < s.rd.offset + 8 + 8 ∧ s.rd.srcEnd = true) ∧
    (∃ s : State, s.host.actions = [] ∧ s.host.commands = [] ∧ s.fsm.state = .storedHdr ∧
      s.rd.offset + (8 - s.rd.offset % 8) % 8 ≤ s.rd.readbits ∧
      s.rd.readbits < s.rd.offset + (8 - s.rd.offset % 8) % 8 + 16) ∧
    (∃ s : State, s.host.actions = [] ∧ s.host.commands = [] ∧ s.fsm.state = .storedHdr ∧
      s.rd.offset + ((8 - s.rd.offset % 8) % 8 + 16) ≤ s.rd.readbits ∧
      s.rd.readbits < s.rd.offset + ((8 - s.rd.offset % 8) % 8 + 16) + 16) :=
  ⟨⟨feed [] 0 .hdr, rfl, rfl, rfl, by decide, by decide, rfl⟩,
   ⟨{ feed [0x78] 0 .zhdr with rd.srcEnd := true }, rfl, rfl, rfl, by decide, by decide, rfl⟩,
   ⟨feed [0x01] 3 .storedHdr, rfl, rfl, rfl, by decide, by decide⟩,
   ⟨feed [0x01, 0x0D, 0x00] 3 .storedHdr, rfl, rfl, rfl, by decide, by decide⟩⟩

theorem witness_AppendsWriteOneByte :
    (∃ (s : State) (b : Byte), 3 ≤ s.win.size ∧ s.win.mem.read ((s.win.size - 3) % 32768) = some b) ∧
    (∃ s : State, s.win.size < 32768) :=
  ⟨⟨live, 0x61, by decide, by decide⟩, ⟨live, by decide⟩⟩

theorem witness_WindowReadsAnswerOrRefuseRange :
    Sound live ∧ 3 ≤ min live.win.size 32768 ∧ min live.win.size 32768 < 4 ∧
    (live.win.size - 32768 ≤ 2 ∧ 2 < live.win.size) ∧ ¬ (live.win.size - 32768 ≤ 3 ∧ 3 < live.win.size) :=
  ⟨live_sound, by decide, by decide, by decide, by decide⟩

theorem witness_BuildCommandAnswersTable :
    (([1, 1] : List CodeLen).length ≤ 288 ∧ KraftSum [1, 1] ≤ 2 ^ 15) ∧
    (([1, 1, 15] : List CodeLen).length ≤ 288 ∧ 2 ^ 15 < KraftSum [1, 1, 15]) := by decide +kernel

/-- DIST_SYM on a byte of ones, with the table in which symbol 0 alone has the codeword '0'. -/
def oneBit (o : Nat) (ended : Bool) : State :=
  { feed [0xFF] o .distSym with
    rd := ⟨[0xFF], 8, o, ended⟩, tbl := { State.reset.tbl with dLen := [1], dN := 1 } }

/-- A DECODE command on TBL_CL in DYN_CLBUILD, its lengths oversubscribed. -/
def tooMany : State :=
  { feed [0xFF] 0 .dynClBuild with
    tbl := { State.reset.tbl with clLen := [1, 1, 1] },
    host := { HostSide.quiet with commands := [⟨0xD, ⟨0, [], [], .cl⟩⟩] } }

/-- Each ending: a codeword; no table; an empty table; one bit that rules out every codeword; a proper prefix at the end of the input, in
the FSM and as a command. -/
theorem witness_DecodeAnswersHoldsOrRaises :
    (∃ (s : State) (sym : Nat) (p : Bits), codewordBits (s.tableLens .ll) sym = some p ∧ bitsStand p s) ∧
    (∃ (s : State) (sel : TableSel), build (s.tableLens sel) = none) ∧
    (∃ s u lens, s.host.actions = [] ∧ Decoding s u lens ∧ build lens = none) ∧
    (∃ s u lens, s.host.actions = [] ∧ Decoding s u lens ∧ build lens = some []) ∧
    (∃ s u lens tab p, s.host.actions = [] ∧ Decoding s u lens ∧ build lens = some tab ∧ bitsStand p s ∧ p.length = 1 ∧
      ∀ e, e ∈ tab → ¬ e.bits <+: p ∧ ¬ p <+: e.bits) ∧
    (∃ s u lens tab p e, s.host.actions = [] ∧ Decoding s u lens ∧ build lens = some tab ∧ bitsStand p s ∧
      s.rd.offset + p.length = s.rd.readbits ∧ e ∈ tab ∧ p <+: e.bits ∧ p ≠ e.bits ∧ s.rd.srcEnd = false) ∧
    (∃ s u lens tab p e, s.host.actions = [] ∧ Decoding s u lens ∧ build lens = some tab ∧ bitsStand p s ∧
      s.rd.offset + p.length = s.rd.readbits ∧ e ∈ tab ∧ p <+: e.bits ∧ p ≠ e.bits ∧ s.rd.srcEnd = true) :=
  ⟨⟨fixedAt [0x03, 0x00] 3 .bodySym, 256, [false, false, false, false, false, false, false],
     by decide +kernel, by decide, by decide⟩,
   ⟨tooMany, .cl, by decide +kernel⟩,
   ⟨tooMany, _, [1, 1, 1], rfl, .inr ⟨rfl, rfl, _, _, rfl, rfl, rfl⟩, by decide +kernel⟩,
   ⟨feed [] 0 .distSym, _, [], rfl, .inl ⟨rfl, rfl, .inr (.inr ⟨rfl, rfl⟩)⟩, by decide +kernel⟩,
   ⟨oneBit 7 false, _, [1], [⟨1, 0, 0⟩], [true], rfl, .inl ⟨rfl, rfl, .inr (.inr ⟨rfl, rfl⟩)⟩, by decide +kernel,
     ⟨by decide, by decide⟩, rfl, by decide⟩,
   ⟨oneBit 8 false, _, [1], [⟨1, 0, 0⟩], [], ⟨1, 0, 0⟩, rfl, .inl ⟨rfl, rfl, .inr (.inr ⟨rfl, rfl⟩)⟩, by decide +kernel,
     ⟨by decide, by decide⟩, rfl, by decide, by decide, by decide, rfl⟩,
   ⟨{ oneBit 8 true with host := { HostSide.quiet with commands := [⟨0xD, ⟨0, [], [], .d⟩⟩] } }, _, [1], [⟨1, 0, 0⟩], [],
     ⟨1, 0, 0⟩, rfl, .inr ⟨rfl, rfl, _, _, rfl, rfl, rfl⟩, by decide +kernel, ⟨by decide, by decide⟩, rfl,
     by decide, by decide, by decide, rfl⟩⟩

theorem witness_OutOfRangeOperandsStop :
    (16 < 17 ∧ Instr.cmdHasBits 17 ∈ [Instr.cmdTakeField 17, .cmdTakeCode 17, .cmdPeekField 17, .cmdPeekCode 17,
      .cmdDiscard 17, .cmdHasBits 17]) ∧
    ([] : Bits).length = 0 ∧ 16 < (List.replicate 17 true).length ∧ 32768 < 32769 ∧
    288 < (List.replicate 289 (0 : CodeLen)).length ∧ 19 ≤ ({ State.reset with fsm.cllIdx := 19 } : State).fsm.cllIdx.toNat ∧
    320 ≤ ({ State.reset with fsm.lensN := 320 } : State).fsm.lensN.toNat := by decide +kernel

theorem witness_ReservedCodesAreRefused : (0xE = 0xE ∨ 0xE = 0xF) ∧ State.reset.host.commands = [] := ⟨.inl rfl, rfl⟩

/-- The first codes of a set with two lengths 1, which is complete, and of one with three, which is oversubscribed. -/
theorem witness_BuildAssignsCanonicalCodes :
    (NextCode [1, 1] (fun L => if L = 1 then 0 else 2 ^ L) ∧ KraftSum [1, 1] ≤ 2 ^ 15) ∧
    (NextCode [1, 1, 1] (fun L => if L = 1 then 0 else 3 * 2 ^ (L - 1)) ∧ 2 ^ 15 < KraftSum [1, 1, 1]) := by
  refine ⟨⟨⟨rfl, ?_⟩, by decide +kernel⟩, ⟨rfl, ?_⟩, by decide +kernel⟩ <;>
  · intro L h1 h2
    interval_cases L <;> rfl

/-- A complete set, an incomplete one with bits that begin no codeword, and one of zeros. -/
theorem witness_CodeIsPrefixFree :
    (∃ tab, build [1, 1] = some tab ∧ KraftSum [1, 1] = 2 ^ 15 ∧ ∃ a b, a ∈ tab ∧ b ∈ tab ∧ a ≠ b) ∧
    (∃ tab, build [1] = some tab ∧ KraftSum [1] < 2 ^ 15 ∧ ∃ (s : State) (p : Bits), p.length = 15 ∧ bitsStand p s ∧
      ∀ e, e ∈ tab → ¬ e.bits <+: p) ∧
    (∃ tab, build [0, 0] = some tab ∧ ∀ l : CodeLen, l ∈ ([0, 0] : List CodeLen) → l = 0) :=
  ⟨⟨[⟨1, 0, 0⟩, ⟨1, 1, 1⟩], by decide +kernel, by decide +kernel, ⟨1, 0, 0⟩, ⟨1, 1, 1⟩, by decide, by decide, by decide⟩,
   ⟨[⟨1, 0, 0⟩], by decide +kernel, by decide +kernel, feed [0xFF, 0xFF] 0 .bodySym, List.replicate 15 true, rfl,
    ⟨by decide, by decide⟩, by decide⟩,
   ⟨[], by decide +kernel, by decide⟩⟩

theorem witness_CodesAreCanonicallyOrdered : ∃ tab, build exampleLens = some tab ∧
    (∃ a b, a ∈ tab ∧ b ∈ tab ∧ a.len = b.len ∧ a.sym < b.sym) ∧ (∃ a b, a ∈ tab ∧ b ∈ tab ∧ a.len < b.len) :=
  ⟨[⟨3, 2, 0⟩, ⟨3, 3, 1⟩, ⟨3, 4, 2⟩, ⟨3, 5, 3⟩, ⟨3, 6, 4⟩, ⟨2, 0, 5⟩, ⟨4, 14, 6⟩, ⟨4, 15, 7⟩], by decide +kernel,
   ⟨⟨3, 2, 0⟩, ⟨3, 3, 1⟩, by decide, by decide, rfl, by decide⟩, ⟨2, 0, 5⟩, ⟨3, 2, 0⟩, by decide, by decide, by decide⟩

theorem witness_FixedSetupInstallsFixedTables :
    ∃ s : State, s.host.actions = [] ∧ s.host.commands = [] ∧ s.fsm.state = .fixedSetup :=
  ⟨feed [] 0 .fixedSetup, rfl, rfl, rfl⟩

theorem witness_CodeLengthTableIsBuilt :
    (∃ s : State, s.host.actions = [] ∧ s.host.commands = [] ∧ s.fsm.state = .dynClBuild ∧ KraftSum s.clLens = 2 ^ 15) ∧
    (∃ s : State, s.host.actions = [] ∧ s.host.commands = [] ∧ s.fsm.state = .dynClBuild ∧ 2 ^ 15 < KraftSum s.clLens) ∧
    (∃ s : State, s.host.actions = [] ∧ s.host.commands = [] ∧ s.fsm.state = .dynLens ∧
      s.fsm.lensN.toNat = s.fsm.hlitR.toNat + 257 + s.fsm.hdistR.toNat + 1) :=
  ⟨⟨{ feed [] 0 .dynClBuild with tbl := { State.reset.tbl with clLen := clTable } }, rfl, rfl, rfl, by decide +kernel⟩,
   ⟨{ feed [] 0 .dynClBuild with tbl := { State.reset.tbl with clLen := [1, 1, 1] } }, rfl, rfl, rfl, by decide +kernel⟩,
   ⟨seqAt [] 0 258, rfl, rfl, rfl, rfl⟩⟩

theorem witness_DynBuildSplitsLengths :
    (∃ s : State, s.host.actions = [] ∧ s.host.commands = [] ∧ s.fsm.state = .dynBuild ∧ s.fsm.lens.length = 320 ∧
      KraftSum (s.fsm.lens.take (s.fsm.hlitR.toNat + 257)) ≤ 2 ^ 15 ∧
      KraftSum ((s.fsm.lens.drop (s.fsm.hlitR.toNat + 257)).take (s.fsm.hdistR.toNat + 1)) ≤ 2 ^ 15) ∧
    (∃ s : State, s.host.actions = [] ∧ s.host.commands = [] ∧ s.fsm.state = .dynBuild ∧ s.fsm.lens.length = 320 ∧
      2 ^ 15 < KraftSum (s.fsm.lens.take (s.fsm.hlitR.toNat + 257))) ∧
    (∃ s : State, s.host.actions = [] ∧ s.host.commands = [] ∧ s.fsm.state = .dynBuild ∧ s.fsm.lens.length = 320 ∧
      2 ^ 15 < KraftSum ((s.fsm.lens.drop (s.fsm.hlitR.toNat + 257)).take (s.fsm.hdistR.toNat + 1))) :=
  ⟨⟨feed [] 0 .dynBuild, rfl, rfl, rfl, List.length_replicate, by decide +kernel, by decide +kernel⟩,
   ⟨{ feed [] 0 .dynBuild with fsm.lens := List.replicate 320 1 }, rfl, rfl, rfl, List.length_replicate, by decide +kernel⟩,
   ⟨{ feed [] 0 .dynBuild with fsm.lens := List.replicate 320 1, fsm.hdistR := 31 }, rfl, rfl, rfl, List.length_replicate,
    by decide +kernel⟩⟩

/-- The distance equal to size. -/
theorem witness_CopyStepAppendsOneByte : ∃ (s : State) (b : Byte), s.host.actions = [] ∧ s.host.commands = [] ∧
    s.fsm.state = .copy ∧ 1 ≤ s.fsm.distR.toNat ∧ s.fsm.distR.toNat ≤ 32768 ∧ s.fsm.distR.toNat ≤ s.win.size ∧
    s.win.mem.read ((s.win.size - s.fsm.distR.toNat) % 32768) = some b :=
  ⟨{ abc (feed [] 0 .copy) with fsm.distR := 3 }, 0x61, rfl, rfl, rfl, by decide, by decide, by decide, by decide⟩

theorem witness_CopyReplicatesPattern : Sound live ∧ (1 : Nat) ≤ 3 ∧ 3 ≤ min live.win.size 32768 ∧ (258 : Nat) ≤ 258 :=
  ⟨live_sound, by decide, by decide, by decide⟩

theorem witness_FlushEmitsOneByte :
    (∃ (s : State) (b : Byte), s.host.actions = [] ∧ s.host.commands = [] ∧ s.fsm.state = .flush ∧
      s.win.mem.read (s.win.flushed % 32768) = some b ∧ s.host.sinkReady = true) ∧
    (∃ (s : State) (b : Byte), s.host.actions = [] ∧ s.host.commands = [] ∧ s.fsm.state = .flush ∧
      s.win.mem.read (s.win.flushed % 32768) = some b ∧ s.host.sinkReady = false) :=
  ⟨⟨{ abc (feed [] 0 .flush) with host.sinkReady := true, win.flushed := 2 }, 0x63, rfl, rfl, rfl, by decide, rfl⟩,
   ⟨abc (feed [] 0 .flush), 0x61, rfl, rfl, rfl, by decide, rfl⟩⟩

theorem witness_BlockEndFlushesThenChooses :
    (live.host.actions = [] ∧ live.host.commands = [] ∧ live.fsm.state = .blockEnd ∧ 0 < live.win.size - live.win.flushed) ∧
    (∃ s : State, s.host.actions = [] ∧ s.host.commands = [] ∧ s.fsm.state = .blockEnd ∧ s.win.size - s.win.flushed = 0 ∧
      s.fsm.bfinalR = 1) ∧
    (∃ s : State, s.host.actions = [] ∧ s.host.commands = [] ∧ s.fsm.state = .blockEnd ∧ s.win.size - s.win.flushed = 0 ∧
      s.fsm.bfinalR = 0) :=
  ⟨⟨rfl, rfl, rfl, by decide⟩, ⟨{ feed [] 0 .blockEnd with fsm.bfinalR := 1 }, rfl, rfl, rfl, rfl, rfl⟩,
   ⟨feed [] 0 .blockEnd, rfl, rfl, rfl, rfl, rfl⟩⟩

theorem witness_ResetGivesResetValues : ∃ s : State, s.host.actions = .reset :: [] ∧ s.host.commands ≠ [] :=
  ⟨{ live with host.actions := [.reset], host.commands := [⟨0, num 1⟩] }, rfl, by decide⟩

/-- Each clause, the thresholds at the ends of their range. -/
theorem witness_RegisterWritesObeyAccessRules :
    (∃ s : State, s.host.actions = [.write .ctrl 1] ∧ s.fsm.state ≠ .idle) ∧
    (∃ s : State, s.host.actions = [.write .status 1] ∧ HostReg.status ≠ .ctrl ∧ HostReg.status ≠ .cfgT) ∧
    (∃ (s : State) (v : BitVec 64), s.host.actions = [.write .ctrl v] ∧ s.fsm.state = .idle ∧ v.getLsbD 0 = false) ∧
    (∃ (s : State) (v : BitVec 64), s.host.actions = [.write .ctrl v] ∧ s.fsm.state = .idle ∧ v.getLsbD 0 = true) ∧
    (∃ (s : State) (v : BitVec 64), s.host.actions = [.write .cfgT v] ∧ s.fsm.state = .idle ∧ v.toNat % 65536 = 1) ∧
    (∃ (s : State) (v : BitVec 64), s.host.actions = [.write .cfgT v] ∧ s.fsm.state = .idle ∧ v.toNat % 65536 = 32768) ∧
    (∃ (s : State) (v : BitVec 64), s.host.actions = [.write .cfgT v] ∧ s.fsm.state = .idle ∧ v.toNat % 65536 = 0) ∧
    (∃ (s : State) (v : BitVec 64), s.host.actions = [.write .cfgT v] ∧ s.fsm.state = .idle ∧ 32768 < v.toNat % 65536) ∧
    (∃ s : State, s.host.actions = [.setZlib true] ∧ s.fsm.state = .idle) ∧
    (∃ s : State, s.host.actions = [.setZlib true] ∧ s.fsm.state ≠ .idle) ∧
    (∃ s : State, s.host.actions = [.start] ∧ s.fsm.state = .idle) ∧
    (∃ s : State, s.host.actions = [.start] ∧ s.fsm.state ≠ .idle) :=
  ⟨⟨{ live with host.actions := [.write .ctrl 1] }, rfl, by decide⟩,
   ⟨{ live with host.actions := [.write .status 1] }, rfl, by decide, by decide⟩,
   ⟨{ State.reset with host.actions := [.write .ctrl 2] }, 2, rfl, rfl, rfl⟩,
   ⟨{ State.reset with host.actions := [.write .ctrl 3] }, 3, rfl, rfl, rfl⟩,
   ⟨{ State.reset with host.actions := [.write .cfgT 1] }, 1, rfl, rfl, rfl⟩,
   ⟨{ State.reset with host.actions := [.write .cfgT 32768] }, 32768, rfl, rfl, rfl⟩,
   ⟨{ State.reset with host.actions := [.write .cfgT 65536] }, 65536, rfl, rfl, rfl⟩,
   ⟨{ State.reset with host.actions := [.write .cfgT 32769] }, 32769, rfl, rfl, by decide⟩,
   ⟨{ State.reset with host.actions := [.setZlib true] }, rfl, rfl⟩, ⟨{ live with host.actions := [.setZlib true] }, rfl, by decide⟩,
   ⟨{ State.reset with host.actions := [.start] }, rfl, rfl⟩, ⟨{ live with host.actions := [.start] }, rfl, by decide⟩⟩

theorem witness_RegisterViewShowsState :
    (live.fsm.state, 17) ∈ stateCodes ∧ (live.err.kind, 0) ∈ errorCodes ∧
    (∃ s : State, (s.fsm.state, 19) ∈ stateCodes ∧ (s.err.kind, 10) ∈ errorCodes) ∧
    live.err.offset < 2 ^ 64 ∧ live.rd.offset < 2 ^ 64 ∧ live.win.size < 2 ^ 64 :=
  ⟨by decide, by decide, ⟨takeFault .repeatWithoutPrevious 30 live, by decide, by decide⟩, by decide, by decide, by decide⟩

theorem witness_EndOfInputIsSticky :
    (∃ s : State, s.host.actions = [.endInput]) ∧
    (∃ s t, (s.rd.srcEnd && !resetting s) = true ∧ step s = .next t ∧ true = true) ∧
    (∃ s : State, s.host.actions = [.reset]) :=
  ⟨⟨{ live with host.actions := [.endInput] }, rfl⟩,
   steps (s := { live with rd.srcEnd := true }) (p := fun s => s.rd.srcEnd && !resetting s) (q := fun _ => true)
     (by decide) (by decide +kernel),
   ⟨{ live with host.actions := [.reset] }, rfl⟩⟩

/-- A step of the core that raises. -/
theorem witness_FaultEntryIsPrecise : ∃ s t,
    (s.host.actions == [] && s.fsm.state == .hdr) = true ∧ step s = .next t ∧ (t.fsm.state == .error) = true :=
  steps (s := feed [0x07] 0 .hdr) (p := fun s => s.host.actions == [] && s.fsm.state == .hdr)
    (q := fun t => t.fsm.state == .error) (by decide) (by decide +kernel)

theorem witness_IdleAndFinishedSessionsStay :
    (State.reset.fsm.state = .idle ∧ State.reset.host.actions = [] ∧ State.reset.host.commands = []) ∧
    (∃ s : State, s.fsm.state = .done ∧ resetting s = false) ∧
    (∃ s : State, s.fsm.state = .error ∧ resetting s = false ∧ s.host.actions = [.write .ctrl 1]) :=
  ⟨⟨rfl, rfl, rfl⟩, ⟨feed [] 0 .done, rfl, rfl⟩,
   ⟨{ feed [] 0 .error with host := { HostSide.quiet with actions := [.write .ctrl 1] } }, rfl, rfl, rfl⟩⟩

/-- A configuration write in HDR; it meets the hypotheses of every rule of the whole machine that asks only for a step
without a reset. -/
theorem witness_ConfigurationIsStable : ∃ s t,
    (s.fsm.state != .idle && !resetting s && s.host.actions == [.write .cfgT 1]) = true ∧ step s = .next t ∧ true = true :=
  steps (s := { feed [] 0 .hdr with host := { HostSide.quiet with actions := [.write .cfgT 1] } })
    (p := fun s => s.fsm.state != .idle && !resetting s && s.host.actions == [.write .cfgT 1]) (q := fun _ => true)
    (by decide) (by decide +kernel)

/-- A step that appends. -/
theorem witness_WindowIsWrittenByAppendOnly : ∃ s t,
    (!resetting s && s.win.size == 0) = true ∧ step s = .next t ∧ (t.win.size == 1) = true :=
  steps (s := { feed [0x48] 0 .storedCopy with fsm.storedRem := 1 }) (p := fun s => !resetting s && s.win.size == 0)
    (q := fun t => t.win.size == 1) (by decide) (by decide +kernel)

theorem witness_BlockFieldsAndTablesAreLatched : ∃ s t,
    (!resetting s && s.fsm.state == .storedCopy) = true ∧ step s = .next t ∧ true = true :=
  steps (s := { feed [0x48] 0 .storedCopy with fsm.storedRem := 1 })
    (p := fun s => !resetting s && s.fsm.state == .storedCopy) (q := fun _ => true) (by decide) (by decide +kernel)

theorem witness_CursorNeverMovesBack : ∃ s t, (!resetting s) = true ∧ step s = .next t ∧ (t.rd.offset == 3) = true :=
  steps (s := feed [0xF3] 0 .hdr) (p := fun s => !resetting s) (q := fun t => t.rd.offset == 3) (by decide) (by decide +kernel)

/-- A held step whose byte arrives, a step that does not hold, and a delivery in each. -/
theorem witness_InputIsTakenOnRequest :
    (∃ s t, (s.host.actions == [] && inReq s) = true ∧ step s = .next t ∧ (t.rd.inbuf != s.rd.inbuf) = true) ∧
    (∃ s t, (s.host.actions == [] && !inReq s) = true ∧ step s = .next t ∧ true = true) ∧
    (∃ s : State, s.host.actions = [.deliver 0xF3] ∧ inReq s = true ∧ s.host.source ++ [0xF3] = [0xF3]) ∧
    (∃ s : State, s.host.actions = [.deliver 0xF3] ∧ inReq s = false) :=
  ⟨let s : State := { feed [] 0 .hdr with host := { HostSide.quiet with source := [0xF3] } }
   let ⟨t, h, hq⟩ := leads_spec (o := step s) (p := fun t => t.rd.inbuf != s.rd.inbuf) (by decide +kernel)
   ⟨s, t, by decide +kernel, h, hq⟩,
   steps (s := feed [0xF3] 0 .hdr) (p := fun s => s.host.actions == [] && !inReq s) (q := fun _ => true)
     (by decide +kernel) (by decide +kernel),
   ⟨{ feed [] 0 .hdr with host.actions := [.deliver 0xF3] }, rfl, by decide +kernel, rfl⟩,
   ⟨{ feed [] 0 .idle with host.actions := [.deliver 0xF3] }, rfl, by decide +kernel⟩⟩

theorem witness_EveryStepKeepsSound : Sound live ∧ ∃ t, step live = .next t := ⟨live_sound, _, rfl⟩

theorem witness_EveryStepKeepsSession : Session live := live_session

theorem witness_InputTimingIsUnobservable : Sound live ∧ live.rd.srcEnd = false ∧ live.host.actions = [] ∧
    inReq live = false ∧ ∃ t, step live = .next t := ⟨live_sound, rfl, rfl, by decide +kernel, _, rfl⟩

theorem witness_EverySessionEnds : Session live ∧ live.fsm.state ≠ .idle ∧ live.host.actions = [] ∧
    live.host.sinkReady = true ∧ live.host.sourceEnds = true := ⟨live_session, by decide, rfl, rfl, rfl⟩


end Sys2Proof.Tests
end

namespace Sys2Proof.Machine

/-! ## The encoder and the decoder are each other's inverse -/

section
variable {w : Nat} (port : Operand)

theorem decode_zlibHdr16 (hw : w < 2 ^ 16) :
    decode .zlibHdr16 w port = .ok (.zlibHeader (BitVec.ofNat 8 (w / 256)) (BitVec.ofNat 8 w)) :=
  if_neg (Nat.not_le.mpr hw)

theorem decode_blockHdr3 (hw : w < 2 ^ 3) : decode .blockHdr3 w port = .ok (decodeBlockHdr w) :=
  if_neg (Nat.not_le.mpr hw)

theorem decode_storedHdr32 (hw : w < 2 ^ 32) :
    decode .storedHdr32 w port = .ok (.storedHeader (BitVec.ofNat 16 w) (BitVec.ofNat 16 (w / 65536))) :=
  if_neg (Nat.not_le.mpr hw)

theorem decode_byte8 (hw : w < 2 ^ 8) : decode .byte8 w port = .ok (.storedByte (BitVec.ofNat 8 w)) :=
  if_neg (Nat.not_le.mpr hw)

theorem decode_dynHdr14 (hw : w < 2 ^ 14) : decode .dynHdr14 w port =
    .ok (.dynHeader (BitVec.ofNat 5 w) (BitVec.ofNat 5 (w / 32)) (BitVec.ofNat 4 (w / 1024))) :=
  if_neg (Nat.not_le.mpr hw)

theorem decode_cll3 (hw : w < 2 ^ 3) : decode .cll3 w port = .ok (.cll (BitVec.ofNat 3 w)) :=
  if_neg (Nat.not_le.mpr hw)

theorem decode_clSym5 (hw : w < 2 ^ 5) : decode .clSym5 w port = .ok (decodeClSym w) := if_neg (Nat.not_le.mpr hw)

theorem decode_llSym9 (hw : w < 2 ^ 9) : decode .llSym9 w port = decodeLlSym w := if_neg (Nat.not_le.mpr hw)

theorem decode_dSym5 (hw : w < 2 ^ 5) : decode .dSym5 w port = .ok (decodeDSym w) := if_neg (Nat.not_le.mpr hw)

theorem decode_cmd4 (hw : w < 2 ^ 4) : decode .cmd4 w port = decodeCmd w port := if_neg (Nat.not_le.mpr hw)

end

/-- A word that decodes fits its format. -/
theorem word_lt_of_decode {f : Format} {w : Nat} {port : Operand} {i : Instr} (h : decode f w port = .ok i) :
    w < 2 ^ f.bits := by
  unfold decode at h
  split at h
  · cases h
  · exact Nat.lt_of_not_le ‹_›

/-! ### A decoded word is its instruction's encoding -/

/-- The length instructions stand in symbol order (30_encoding R341). -/
theorem encode_lengthInstrs : ∀ k (h : k < lengthInstrs.length), encode lengthInstrs[k] = .of .llSym9 (257 + k) := by
  decide

theorem encode_decodeBlockHdr {w : Nat} (hw : w < 8) : encode (decodeBlockHdr w) = .of .blockHdr3 w := by
  interval_cases w <;> rfl

theorem encode_decodeClSym {w : Nat} (hw : w < 32) : encode (decodeClSym w) = .of .clSym5 w := by
  interval_cases w <;> rfl

theorem encode_decodeDSym {w : Nat} (hw : w < 32) : encode (decodeDSym w) = .of .dSym5 w := by
  interval_cases w <;> rfl

theorem lengthInstrs_length : lengthInstrs.length = 29 := rfl

theorem encode_decodeLlSym {w : Nat} {i : Instr} (h : decodeLlSym w = .ok i) : encode i = .of .llSym9 w := by
  unfold decodeLlSym at h
  split at h
  · cases h
    simp only [encode, BitVec.toNat_ofNat]
    rw [Nat.mod_eq_of_lt ‹_›]
  · split at h
    · cases h; subst w; rfl
    · split at h
      · rename_i hi
        obtain ⟨hk, rfl⟩ := List.getElem?_eq_some_iff.mp hi
        obtain rfl := Except.ok.inj h
        rw [encode_lengthInstrs, Nat.add_sub_cancel' (by omega)]
      · rename_i hi
        rw [List.getElem?_eq_none_iff] at hi
        split at h
        · obtain rfl := Except.ok.inj h
          rw [lengthInstrs_length] at hi
          have hmod : (w - 286) % 2 = w - 286 := by omega
          rw [encode, BitVec.toNat_ofNat, Nat.pow_one, hmod, Nat.add_sub_cancel' (by omega)]
        · cases h

theorem encode_decodeCmd {w : Nat} {port : Operand} {i : Instr} (hw : w < 16) (h : decodeCmd w port = .ok i) :
    (encode i).fmt = .cmd4 ∧ (encode i).word = w := by
  rcases Nat.lt_trichotomy w 8 with hlt | rfl | hgt
  · interval_cases w <;> cases h <;> exact ⟨rfl, rfl⟩
  · simp only [decodeCmd] at h
    split at h
    · cases h; exact ⟨rfl, rfl⟩
    · cases h
  · interval_cases w <;> cases h <;> exact ⟨rfl, rfl⟩

/-- An encoding, read as its format and its word. -/
theorem encode_fields {f : Format} {i : Instr} {v w : Nat} (hi : encode i = .of f v) (hv : v = w) :
    (encode i).fmt = f ∧ (encode i).word = w := by
  rw [hi]; exact ⟨rfl, hv⟩

/-- Each word of each format stands for one instruction, whose encoding is that word. -/
theorem encode_of_decode {f : Format} {w : Nat} {port : Operand} {i : Instr} (h : decode f w port = .ok i) :
    (encode i).fmt = f ∧ (encode i).word = w := by
  have hw := word_lt_of_decode h
  cases f with
  | zlibHdr16 =>
    rw [decode_zlibHdr16 port hw] at h
    cases h
    exact encode_fields rfl (by simp only [Format.bits] at hw; simp only [BitVec.toNat_ofNat]; omega)
  | blockHdr3 =>
    rw [decode_blockHdr3 port hw] at h
    cases h
    exact encode_fields (encode_decodeBlockHdr hw) rfl
  | storedHdr32 =>
    rw [decode_storedHdr32 port hw] at h
    cases h
    exact encode_fields rfl (by simp only [Format.bits] at hw; simp only [BitVec.toNat_ofNat]; omega)
  | byte8 =>
    rw [decode_byte8 port hw] at h
    cases h
    exact encode_fields rfl (Nat.mod_eq_of_lt hw)
  | dynHdr14 =>
    rw [decode_dynHdr14 port hw] at h
    cases h
    exact encode_fields rfl (by simp only [Format.bits] at hw; simp only [BitVec.toNat_ofNat]; omega)
  | cll3 =>
    rw [decode_cll3 port hw] at h
    cases h
    exact encode_fields rfl (Nat.mod_eq_of_lt hw)
  | clSym5 =>
    rw [decode_clSym5 port hw] at h
    cases h
    exact encode_fields (encode_decodeClSym hw) rfl
  | llSym9 =>
    rw [decode_llSym9 port hw] at h
    exact encode_fields (encode_decodeLlSym h) rfl
  | dSym5 =>
    rw [decode_dSym5 port hw] at h
    cases h
    exact encode_fields (encode_decodeDSym hw) rfl
  | cmd4 =>
    rw [decode_cmd4 port hw] at h
    exact encode_decodeCmd hw h

/-! ### Decoding an encoding gives the instruction back -/

theorem bitVec_ofNat_eq {m n : Nat} {x : BitVec m} (h : n % 2 ^ m = x.toNat) : BitVec.ofNat m n = x :=
  BitVec.eq_of_toNat_eq ((BitVec.toNat_ofNat n m).trans h)

theorem decodeLlSym_lit (b : BitVec 8) : decodeLlSym b.toNat = .ok (.lit b) := by
  rw [decodeLlSym, if_pos b.isLt, BitVec.ofNat_toNat, BitVec.setWidth_eq]

theorem decodeCmd_appendLiteral (b : BitVec 8) (port : Operand) (h : port.n = b.toNat) :
    decodeCmd 8 port = .ok (.cmdAppendLiteral b) := by
  simp only [decodeCmd, h, if_pos b.isLt, BitVec.ofNat_toNat, BitVec.setWidth_eq]

/-- Decoding an encoded instruction gives it back (30_encoding R301-R306, R340-R343, R370). The instructions without an
operand evaluate, and so do those whose operand is the operand port itself. -/
theorem decode_encode (i : Instr) : decode (encode i).fmt (encode i).word (encode i).port = .ok i := by
  cases i with
  | zlibHeader cmf flg =>
    refine (decode_zlibHdr16 _ (Laws.WordFits.zlibHeader cmf flg)).trans ?_
    simp only [encode, Element.of]
    rw [bitVec_ofNat_eq (x := cmf) (by omega), bitVec_ofNat_eq (x := flg) (by omega)]
  | storedHeader len nlen =>
    refine (decode_storedHdr32 _ (Laws.WordFits.storedHeader len nlen)).trans ?_
    simp only [encode, Element.of]
    rw [bitVec_ofNat_eq (x := len) (by omega), bitVec_ofNat_eq (x := nlen) (by omega)]
  | dynHeader hlit hdist hclen =>
    refine (decode_dynHdr14 _ (Laws.WordFits.dynHeader hlit hdist hclen)).trans ?_
    simp only [encode, Element.of]
    rw [bitVec_ofNat_eq (x := hlit) (by omega), bitVec_ofNat_eq (x := hdist) (by omega),
      bitVec_ofNat_eq (x := hclen) (by omega)]
  | storedByte b => exact (decode_byte8 _ b.isLt).trans (by simp)
  | cll len => exact (decode_cll3 _ len.isLt).trans (by simp)
  | lit b => exact (decode_llSym9 _ (Laws.WordFits.lit b)).trans (decodeLlSym_lit b)
  | cmdAppendLiteral b => exact decodeCmd_appendLiteral b _ rfl
  | blockStored f | blockFixed f | blockDynamic f | blockInvalid f => revert f; decide
  | clLit c => revert c; decide
  | clInvalid20 low | clInvalid24 low | llInvalid low | dInvalid low | cmdReserved low => revert low; decide
  | _ => rfl

/-- An element of the stream has nothing on the operand port. -/
theorem encode_port (i : Instr) (h : (encode i).fmt ≠ .cmd4) : (encode i).port = .zero := by
  cases i with
  | cmdTakeField | cmdTakeCode | cmdPeekField | cmdPeekCode | cmdDiscard | cmdAlign | cmdStartsWith | cmdHasBits
  | cmdAppendLiteral | cmdAppendBackref | cmdLastN | cmdWinRead | cmdBuild | cmdDecode | cmdReserved =>
    exact absurd rfl h
  | _ => rfl

/-- The symbols 257 to 285 decode to the length instructions in order, and each runs the length symbol's meaning. -/
theorem decode_lengthSymbol {k : Nat} (hk : k < 29) (port : Operand) :
    decode .llSym9 (257 + k) port = .ok (lengthInstrs[k]'hk) := by
  interval_cases k <;> rfl

theorem exec_lengthInstrs {k : Nat} (hk : k < 29) (s : State) :
    exec (lengthInstrs[k]'hk) s = lengthMeaning (257 + k) s := by
  interval_cases k <;> rfl

/-- The symbols 0 to 29 decode to the distance instructions in order, and each runs the distance symbol's meaning. -/
theorem decode_distSymbol {k : Nat} (hk : k < 30) (port : Operand) :
    decode .dSym5 k port = .ok (distInstrs[k]'hk) := by
  interval_cases k <;> rfl

theorem exec_distInstrs {k : Nat} (hk : k < 30) (s : State) : exec (distInstrs[k]'hk) s = distMeaning k s := by
  interval_cases k <;> rfl

/-! ## Canonical codewords are read back

`firstCode` is `next_code` of 42_huffman R604. The codes of length `L` run from `firstCode L` to below
`firstCode L + bl_count[L]`, and that is at most the leading `L` bits of every longer code; so the walk of `Decode` meets no
other codeword on its way. -/

/-- `next_code[L]` before step 3 (42_huffman R604). -/
def firstCode (lens : List CodeLen) : Nat → Nat
  | 0 => 0
  | L + 1 => (firstCode lens L + blCount lens L) * 2

section
variable (lens : List CodeLen)

theorem nextCodesFrom_length (c L n : Nat) : (nextCodesFrom lens c L n).length = n := by
  induction n generalizing c L with
  | zero => rfl
  | succ n ih => simp [nextCodesFrom, ih]

theorem nextCodesFrom_getD (L n k : Nat) (hk : k < n) :
    (nextCodesFrom lens (firstCode lens L) L n).getD k 0 = firstCode lens (L + k) := by
  induction n generalizing L k with
  | zero => omega
  | succ n ih =>
    cases k with
    | zero => rfl
    | succ k =>
      have h := ih (L + 1) k (by omega)
      rwa [firstCode, Nat.add_right_comm] at h

theorem nextCodes_getD {L : Nat} (hL : L < 16) : (nextCodes lens).getD L 0 = firstCode lens L := by
  have h := nextCodesFrom_getD lens 0 16 L hL
  rwa [Nat.zero_add] at h

/-- The Kraft sum over the lengths up to `n`. -/
def kraftUpTo (n : Nat) : Nat := ((List.range n).map fun i => blCount lens (i + 1) * 2 ^ (14 - i)).sum

theorem kraftUpTo_succ (n : Nat) : kraftUpTo lens (n + 1) = kraftUpTo lens n + blCount lens (n + 1) * 2 ^ (14 - n) := by
  simp [kraftUpTo, List.range_succ]

/-- The codes up to length `n + 1` take the part of the code space that the Kraft sum counts. -/
theorem kraftUpTo_eq (n : Nat) (hn : n ≤ 14) :
    (firstCode lens (n + 1) + blCount lens (n + 1)) * 2 ^ (14 - n) = kraftUpTo lens (n + 1) := by
  induction n with
  | zero => simp [kraftUpTo, firstCode, blCount]
  | succ n ih =>
    have hpow : 2 ^ (14 - n) = 2 * 2 ^ (14 - (n + 1)) := by
      rw [← Nat.pow_succ', show (14 - (n + 1)).succ = 14 - n by omega]
    rw [kraftUpTo_succ, ← ih (by omega), firstCode, Nat.add_mul, hpow, Nat.mul_assoc]

theorem kraftUpTo_mono {m n : Nat} (h : m ≤ n) : kraftUpTo lens m ≤ kraftUpTo lens n := by
  induction n, h using Nat.le_induction with
  | base => exact le_refl _
  | succ n _ ih => rw [kraftUpTo_succ]; omega

/-- No length has more codes than fit (42_huffman R606). -/
theorem firstCode_add_blCount_le (hk : kraft lens ≤ 2 ^ Config.maxCodeLen) {L : Nat} (h1 : 1 ≤ L) (h15 : L ≤ 15) :
    firstCode lens L + blCount lens L ≤ 2 ^ L := by
  obtain ⟨n, rfl⟩ := Nat.exists_eq_add_of_le' h1
  have hle : kraftUpTo lens (n + 1) ≤ 2 ^ 15 := (kraftUpTo_mono lens h15).trans hk
  rw [← kraftUpTo_eq lens n (by omega), show 15 = (n + 1) + (14 - n) by omega, Nat.pow_add] at hle
  exact Nat.le_of_mul_le_mul_right hle (by positivity)

/-- The codes of a length lie below the leading bits of every longer code. -/
theorem codes_le_firstCode {L M : Nat} (h : L < M) :
    (firstCode lens L + blCount lens L) * 2 ^ (M - L) ≤ firstCode lens M := by
  induction M, h using Nat.le_induction with
  | base => simp [firstCode]
  | succ M hM ih =>
    have hpow : 2 ^ (M + 1 - L) = 2 ^ (M - L) * 2 := by rw [← Nat.pow_succ, Nat.sub_add_comm (by omega)]
    rw [firstCode, hpow, ← Nat.mul_assoc]
    exact Nat.mul_le_mul_right 2 (ih.trans (Nat.le_add_right _ _))

end

/-- Taking the next code of a length (42_huffman R605) moves that length's entry alone. -/
theorem getD_set_succ (next : List Nat) (l m : Nat) (hl : l < next.length) :
    (next.set l (next.getD l 0 + 1)).getD m 0 = next.getD m 0 + if l = m then 1 else 0 := by
  rw [List.getD_eq_getElem?_getD, List.getElem?_set]
  by_cases h : l = m
  · subst h; simp [hl]
  · simp [h]

/-- Each code is one of its length's, from `next` on. -/
theorem code_of_mem_assignCodes {lens : List CodeLen} {next : List Nat} {sym : Nat} {e : CodeEntry} (hn : next.length = 16)
    (h : e ∈ assignCodes next sym lens) : next.getD e.len 0 ≤ e.code ∧
      e.code < next.getD e.len 0 + lens.countP (fun l => l.toNat == e.len) := by
  induction lens generalizing next sym with
  | nil => cases h
  | cons l ls ih =>
    rw [assignCodes] at h
    rw [List.countP_cons]
    split at h
    · obtain ⟨h1, h2⟩ := ih hn h
      exact ⟨h1, by omega⟩
    · rcases List.mem_cons.mp h with rfl | hm
      · simp
      · obtain ⟨h1, h2⟩ := ih (by simpa using hn) hm
        rw [getD_set_succ _ _ _ (hn ▸ l.isLt)] at h1 h2
        simp only [beq_iff_eq]
        omega

/-- Two symbols never share a codeword. -/
theorem assignCodes_inj {lens : List CodeLen} {next : List Nat} {sym : Nat} {d e : CodeEntry} (hn : next.length = 16)
    (hd : d ∈ assignCodes next sym lens) (he : e ∈ assignCodes next sym lens) (hl : d.len = e.len)
    (hc : d.code = e.code) : d = e := by
  induction lens generalizing next sym with
  | nil => cases hd
  | cons l ls ih =>
    rw [assignCodes] at hd he
    split at hd
    · rename_i h0
      rw [if_pos h0] at he
      exact ih hn hd he
    · rename_i h0
      rw [if_neg h0] at he
      have hset : (next.set l.toNat (next.getD l.toNat 0 + 1)).length = 16 := by simpa using hn
      have later {f : CodeEntry} (hf : f ∈ assignCodes (next.set l.toNat (next.getD l.toNat 0 + 1)) (sym + 1) ls)
          (hlen : f.len = l.toNat) : next.getD l.toNat 0 < f.code := by
        have h1 := (code_of_mem_assignCodes hset hf).1
        rw [getD_set_succ _ _ _ (hn ▸ l.isLt), hlen, if_pos rfl] at h1
        exact h1
      rcases List.mem_cons.mp hd with rfl | hd' <;> rcases List.mem_cons.mp he with rfl | he'
      · rfl
      · exact absurd hc (later he' hl.symm).ne
      · exact absurd hc (later hd' hl).ne'
      · exact ih hset hd' he'

section
variable {lens : List CodeLen} {t : Table} {d e : CodeEntry}

theorem len_lt_of_mem_build (hb : build lens = some t) (he : e ∈ t) : 1 ≤ e.len ∧ e.len ≤ 15 := by
  rw [(build_eq_some hb).2] at he
  obtain ⟨-, -, hlen, h1⟩ := mem_assignCodes he
  have := (lens.getD (e.sym - 0) 0).isLt
  omega

theorem build_code_bounds (hb : build lens = some t) (he : e ∈ t) :
    firstCode lens e.len ≤ e.code ∧ e.code < firstCode lens e.len + blCount lens e.len := by
  obtain ⟨h1, h15⟩ := len_lt_of_mem_build hb he
  rw [(build_eq_some hb).2] at he
  have h := code_of_mem_assignCodes (nextCodesFrom_length lens 0 0 16) he
  rw [← nextCodes, nextCodes_getD lens (by omega)] at h
  rwa [blCount, if_neg (by omega)]

/-- A codeword fits its length. -/
theorem build_code_lt (hb : build lens = some t) (he : e ∈ t) : e.code < 2 ^ e.len := by
  obtain ⟨h1, h15⟩ := len_lt_of_mem_build hb he
  exact (build_code_bounds hb he).2.trans_le (firstCode_add_blCount_le lens (build_eq_some hb).1 h1 h15)

theorem build_inj (hb : build lens = some t) (hd : d ∈ t) (he : e ∈ t) (hl : d.len = e.len) (hc : d.code = e.code) :
    d = e := by
  rw [(build_eq_some hb).2] at hd he
  exact assignCodes_inj (nextCodesFrom_length lens 0 0 16) hd he hl hc

/-- No codeword begins a longer one. -/
theorem build_code_ne_leading (hb : build lens = some t) (hd : d ∈ t) (he : e ∈ t) (hl : d.len < e.len) :
    d.code ≠ e.code / 2 ^ (e.len - d.len) := by
  have hle : firstCode lens d.len + blCount lens d.len ≤ e.code / 2 ^ (e.len - d.len) := by
    rw [Nat.le_div_iff_mul_le (by positivity)]
    exact (codes_le_firstCode lens hl).trans (build_code_bounds hb he).1
  have := (build_code_bounds hb hd).2
  omega

theorem lookup_of_mem (hb : build lens = some t) (he : e ∈ t) : lookup t e.len e.code = some e.sym := by
  unfold lookup
  rcases hf : t.find? fun d => d.len == e.len && d.code == e.code with _ | d
  · simpa using List.find?_eq_none.mp hf e he
  · have hp := List.find?_some hf
    simp only [Bool.and_eq_true, beq_iff_eq] at hp
    rw [hf, build_inj hb (List.mem_of_find?_eq_some hf) he hp.1 hp.2]
    rfl

theorem lookup_leading (hb : build lens = some t) (he : e ∈ t) {k : Nat} (hk : k < e.len) :
    lookup t k (e.code / 2 ^ (e.len - k)) = none := by
  cases h : lookup t k (e.code / 2 ^ (e.len - k)) with
  | none => rfl
  | some sym =>
    obtain ⟨d, hd, rfl, hc, -⟩ := lookup_some h
    exact absurd hc (build_code_ne_leading hb hd he hk)

theorem hasLonger_leading (he : e ∈ t) {k : Nat} (hk : k < e.len) :
    hasLonger t k (e.code / 2 ^ (e.len - k)) = true :=
  List.any_eq_true.mpr ⟨e, he, by simp [hk]⟩

/-! ### The walk -/

variable {s : State}

/-- The bits of the codeword stand at the cursor, first bit most significant (20_memory R212). -/
def CodeStands (e : CodeEntry) (s : State) : Prop :=
  s.rd.offset + e.len ≤ s.rd.readbits ∧ ∀ k, k < e.len → s.inBit (s.rd.offset + k) = e.code.testBit (e.len - 1 - k)

/-- One more bit of the code. -/
theorem div_two_pow_step (c n k : Nat) (hk : k < n) :
    2 * (c / 2 ^ (n - k)) + (c.testBit (n - 1 - k)).toNat = c / 2 ^ (n - (k + 1)) := by
  have hpow : n - k = n - 1 - k + 1 := by omega
  rw [show n - (k + 1) = n - 1 - k by omega, hpow, Nat.pow_succ, ← Nat.div_div_eq_div_mul, Nat.toNat_testBit]
  omega

theorem decodeWalk_of_codeStands (hb : build lens = some t) (he : e ∈ t) (hs : CodeStands e s) (fuel k : Nat)
    (hk : k < e.len) (hfuel : e.len ≤ k + fuel) :
    decodeWalk t s fuel k (e.code / 2 ^ (e.len - k)) = .ok (e.sym, s.advance e.len) := by
  obtain ⟨hroom, hbits⟩ := hs
  induction fuel generalizing k with
  | zero => omega
  | succ fuel ih =>
    rw [decodeWalk, ensure_ok (by omega), hbits k hk]
    simp only [bind, Except.bind, div_two_pow_step _ _ _ hk]
    by_cases hlast : k + 1 = e.len
    · rw [hlast, Nat.sub_self, Nat.pow_zero, Nat.div_one, lookup_of_mem hb he]
      rfl
    · have hk' : k + 1 < e.len := by omega
      rw [lookup_leading hb he hk', hasLonger_leading he hk']
      exact ih (k + 1) hk' (by omega)

/-- `Decode` answers the symbol whose codeword stands at the cursor. -/
theorem decodeWith_of_codeStands (hb : build lens = some t) (he : e ∈ t) (hs : CodeStands e s) :
    decodeWith lens s = .ok (e.sym, s.advance e.len) := by
  obtain ⟨h1, h15⟩ := len_lt_of_mem_build hb he
  have hne : t.isEmpty = false := by
    rw [List.isEmpty_eq_false_iff]; exact List.ne_nil_of_mem he
  have hwalk := decodeWalk_of_codeStands hb he hs 15 0 h1 (by omega)
  rw [Nat.sub_zero, Nat.div_eq_of_lt (build_code_lt hb he)] at hwalk
  simp only [decodeWith, buildTable, hb, bind, Except.bind, decodeSymbol, hne, Bool.false_eq_true, if_false]
  exact hwalk

end

/-! ## Words are read back -/

theorem fieldBits_length (n v : Nat) : (fieldBits n v).length = n := by
  induction n generalizing v with
  | zero => rfl
  | succ n ih => simp [fieldBits, ih]

theorem fieldBits_getElem? (n v i : Nat) (hi : i < n) : (fieldBits n v)[i]? = some (v.testBit i) := by
  induction n generalizing v i with
  | zero => omega
  | succ n ih =>
    cases i with
    | zero => simp [fieldBits, Nat.testBit_zero, beq_eq_decide]
    | succ i => rw [fieldBits, List.getElem?_cons_succ, ih _ _ (by omega), Nat.testBit_succ]

section
variable {s : State}

theorem bitsAt_length (k n : Nat) : (bitsAt s k n).length = n := by simp [bitsAt]

theorem bitsAt_getElem? (k n i : Nat) (hi : i < n) : (bitsAt s k n)[i]? = some (s.inBit (k + i)) := by
  simp [bitsAt, hi]

theorem bitsAt_succ (k n : Nat) : bitsAt s k (n + 1) = s.inBit k :: bitsAt s (k + 1) n := by
  simp [bitsAt, List.range_succ_eq_map, Nat.add_assoc, Nat.add_comm 1, Function.comp_def]

theorem bitsAt_add (k m n : Nat) : bitsAt s k (m + n) = bitsAt s k m ++ bitsAt s (k + m) n := by
  simp [bitsAt, List.range_add, Nat.add_assoc, Function.comp_def]

/-- The field whose bits stand at `k`. -/
theorem fieldValue_of_bitsAt {k n v : Nat} (h : bitsAt s k n = fieldBits n v) : fieldValue s k n = v % 2 ^ n := by
  induction n generalizing k v with
  | zero => simp [fieldValue, Nat.mod_one]
  | succ n ih =>
    rw [bitsAt_succ, fieldBits] at h
    obtain ⟨hb, ht⟩ := List.cons.inj h
    rw [fieldValue, hb, ih ht, Nat.pow_succ', Nat.mod_mul]
    rcases Nat.mod_two_eq_zero_or_one v with h | h <;> simp [h]

/-- A symbol's codeword at the cursor. -/
theorem decodeWith_of_bitsStand {lens : List CodeLen} {sym : Nat} {p : Bits} (hp : codewordBits lens sym = some p)
    (hs : bitsStand p s) : ∃ t, decodeWith lens s = .ok (sym, t) := by
  unfold codewordBits at hp
  cases hb : build lens with
  | none => rw [hb] at hp; cases hp
  | some t =>
    rw [hb] at hp
    obtain ⟨e, hf, rfl⟩ := Option.map_eq_some_iff.mp hp
    have he : e ∈ t := List.mem_of_find?_eq_some hf
    have hsym : e.sym = sym := by simpa using List.find?_some hf
    obtain ⟨hroom, hbits⟩ := hs
    rw [codeBits, List.length_reverse, fieldBits_length] at hroom hbits
    refine ⟨_, hsym ▸ decodeWith_of_codeStands hb he ⟨hroom, fun k hk => ?_⟩⟩
    have hbit := bitsAt_getElem? (s := s) s.rd.offset e.len k hk
    rw [hbits, List.getElem?_reverse (by rwa [fieldBits_length]), fieldBits_length,
      fieldBits_getElem? _ _ _ (by omega)] at hbit
    exact (Option.some.inj hbit).symm

end

/-! ### The word of each format -/

section
variable {s : State}

/-- A field `m` bits on, whose bits are there. -/
theorem takeField_advance {m n : Nat} (h : s.rd.offset + (m + n) ≤ s.rd.readbits) :
    takeField n (s.advance m) = .ok (fieldValue s (s.rd.offset + m) n, s.advance (m + n)) := by
  rw [takeField_eq, if_pos (by simpa [Nat.add_assoc] using h), fieldValue_advance, advance_advance]
  rfl

theorem takeField_here {n : Nat} (h : s.rd.offset + n ≤ s.rd.readbits) :
    takeField n s = .ok (fieldValue s s.rd.offset n, s.advance n) := by
  rw [takeField_eq, if_pos h]

theorem readWord_zlibHdr16 (h : s.rd.offset + 16 ≤ s.rd.readbits) : readWord .zlibHdr16 s =
    .ok (fieldValue s s.rd.offset 8 * 256 + fieldValue s (s.rd.offset + 8) 8) := by
  simp only [readWord, takeField_here (s := s) (n := 8) (by omega), bind, Except.bind,
    takeField_advance (s := s) (m := 8) (n := 8) h]
  rfl

theorem readWord_blockHdr3 (h : s.rd.offset + 3 ≤ s.rd.readbits) :
    readWord .blockHdr3 s = .ok (fieldValue s s.rd.offset 3) := by
  simp only [readWord, takeField_here (s := s) (n := 1) (by omega), bind, Except.bind,
    takeField_advance (s := s) (m := 1) (n := 2) h]
  rw [show 3 = 1 + 2 from rfl, fieldValue_add]
  rfl

theorem readWord_storedHdr32 (h : s.rd.offset + (alignPad s + 32) ≤ s.rd.readbits) :
    readWord .storedHdr32 s = .ok (fieldValue s (s.rd.offset + alignPad s) 32) := by
  have halign : align s = .ok (s.advance (alignPad s)) := by rw [align, discard_eq, if_pos (by omega)]
  simp only [readWord, halign, bind, Except.bind, takeField_advance (s := s) (m := alignPad s) (n := 16) (by omega),
    takeField_advance (s := s) (m := alignPad s + 16) (n := 16) h]
  rw [show 32 = 16 + 16 from rfl, fieldValue_add, Nat.add_assoc]
  rfl

theorem readWord_dynHdr14 (h : s.rd.offset + 14 ≤ s.rd.readbits) :
    readWord .dynHdr14 s = .ok (fieldValue s s.rd.offset 14) := by
  simp only [readWord, takeField_here (s := s) (n := 5) (by omega), bind, Except.bind,
    takeField_advance (s := s) (m := 5) (n := 5) (by omega), takeField_advance (s := s) (m := 10) (n := 4) h]
  rw [show 14 = 5 + 5 + 4 from rfl, fieldValue_add, fieldValue_add]
  rfl

theorem readWord_byte8 (h : s.rd.offset + 8 ≤ s.rd.readbits) : readWord .byte8 s = .ok (fieldValue s s.rd.offset 8) := by
  simp only [readWord, takeField_here h]
  rfl

theorem readWord_cll3 (h : s.rd.offset + 3 ≤ s.rd.readbits) : readWord .cll3 s = .ok (fieldValue s s.rd.offset 3) := by
  simp only [readWord, takeField_here h]
  rfl

/-- A field's word at the cursor, in FIELD order. -/
theorem bitsStand_fieldBits {n v : Nat} (hs : bitsStand (fieldBits n v) s) (hv : v < 2 ^ n) :
    s.rd.offset + n ≤ s.rd.readbits ∧ fieldValue s s.rd.offset n = v := by
  obtain ⟨hroom, hbits⟩ := hs
  rw [fieldBits_length] at hroom hbits
  exact ⟨hroom, by rw [fieldValue_of_bitsAt hbits, Nat.mod_eq_of_lt hv]⟩

/-- The header bytes of ZLIB_HDR16 at the cursor, the high byte first (20_memory R213). -/
theorem bitsStand_zlibHdr16 {v : Nat} (hs : bitsStand (fieldBits 8 (v / 256) ++ fieldBits 8 v) s) (hv : v < 2 ^ 16) :
    s.rd.offset + 16 ≤ s.rd.readbits ∧
      fieldValue s s.rd.offset 8 * 256 + fieldValue s (s.rd.offset + 8) 8 = v := by
  obtain ⟨hroom, hbits⟩ := hs
  rw [List.length_append, fieldBits_length, fieldBits_length] at hroom hbits
  rw [bitsAt_add] at hbits
  obtain ⟨h1, h2⟩ := List.append_inj hbits (by rw [bitsAt_length, fieldBits_length])
  refine ⟨hroom, ?_⟩
  rw [fieldValue_of_bitsAt h1, fieldValue_of_bitsAt h2]
  omega

/-- A symbol's codeword at the cursor is read as the symbol. -/
theorem decodedSymbol_of_bitsStand {lens : List CodeLen} {sym : Nat} {p : Bits} (hp : codewordBits lens sym = some p)
    (hs : bitsStand p s) : (decodeWith lens s >>= fun q => .ok q.1) = .ok sym := by
  obtain ⟨t, ht⟩ := decodeWith_of_bitsStand hp hs
  rw [ht]
  rfl

/-- The word of an element that stands at the cursor is the word the step reads. -/
theorem readWord_of_standsAt {e : Element} (hs : standsAt e s) (hw : e.word < 2 ^ e.fmt.bits) :
    readWord e.fmt s = .ok e.word := by
  obtain ⟨f, v, port⟩ := e
  cases f with
  | zlibHdr16 =>
    obtain ⟨p, hp, hs⟩ := hs
    obtain rfl := Option.some.inj hp
    obtain ⟨hroom, hv⟩ := bitsStand_zlibHdr16 hs hw
    rw [readWord_zlibHdr16 hroom, hv]
  | blockHdr3 =>
    obtain ⟨p, hp, hs⟩ := hs
    obtain rfl := Option.some.inj hp
    obtain ⟨hroom, hv⟩ := bitsStand_fieldBits hs hw
    rw [readWord_blockHdr3 hroom, hv]
  | storedHdr32 =>
    obtain ⟨hroom, hv⟩ := bitsStand_fieldBits hs hw
    rw [advance_rd_offset, advance_rd_readbits, Nat.add_assoc] at hroom
    rw [fieldValue_advance] at hv
    rw [readWord_storedHdr32 hroom]
    exact congrArg _ hv
  | byte8 =>
    obtain ⟨p, hp, hs⟩ := hs
    obtain rfl := Option.some.inj hp
    obtain ⟨hroom, hv⟩ := bitsStand_fieldBits hs hw
    rw [readWord_byte8 hroom, hv]
  | dynHdr14 =>
    obtain ⟨p, hp, hs⟩ := hs
    obtain rfl := Option.some.inj hp
    obtain ⟨hroom, hv⟩ := bitsStand_fieldBits hs hw
    rw [readWord_dynHdr14 hroom, hv]
  | cll3 =>
    obtain ⟨p, hp, hs⟩ := hs
    obtain rfl := Option.some.inj hp
    obtain ⟨hroom, hv⟩ := bitsStand_fieldBits hs hw
    rw [readWord_cll3 hroom, hv]
  | clSym5 =>
    obtain ⟨p, hp, hs⟩ := hs
    exact decodedSymbol_of_bitsStand (lens := s.clLens) hp hs
  | llSym9 =>
    obtain ⟨p, hp, hs⟩ := hs
    exact decodedSymbol_of_bitsStand (lens := s.llLens) hp hs
  | dSym5 =>
    obtain ⟨p, hp, hs⟩ := hs
    exact decodedSymbol_of_bitsStand (lens := s.dLens) hp hs
  | cmd4 =>
    obtain ⟨c, rest, hc, hop, -⟩ := hs
    simp only [readWord, hc, hop]

end

/-! ### The step runs it -/

section
variable {s : State}

theorem nextElement_command (hover : sessionOver s = false) (hc : s.host.commands ≠ []) :
    nextElement s = some (fetch .cmd4 s) := by
  rw [nextElement, if_neg (by simp [hover]), if_pos hc]

theorem nextElement_stream (hover : sessionOver s = false) (hc : s.host.commands = []) {f : Format}
    (hf : streamFormat s = some f) : nextElement s = some (fetch f s) := by
  rw [nextElement, if_neg (by simp [hover]), if_neg (by simp [hc])]
  split
  · rename_i hst
    simp [streamFormat, hst] at hf
  · rename_i hst
    simp [streamFormat, hst] at hf
  all_goals rw [hf]; rfl

theorem fetch_of_standsAt {i : Instr} (hs : standsAt (encode i) s) (hp : s.port = (encode i).port) :
    fetch (encode i).fmt s = .ok i := by
  have hw := word_lt_of_decode (decode_encode i)
  rw [fetch, readWord_of_standsAt hs hw]
  show instrOf _ _ s = _
  rw [instrOf, hp, decode_encode]

theorem step_of_fetch {i : Instr} (ha : s.host.actions = []) (h : nextElement s = some (.ok i)) : step s = exec i s := by
  simp only [step, ha, coreStep, h]

end

/-- Settles O7: the word that stands at the cursor is the word the step reads, and decoding it gives the instruction back. -/
theorem stepRunsEncodedInstruction : Obligations.StepRunsEncodedInstruction := by
  intro s i _ ha hover hfmt hs
  refine step_of_fetch ha ?_
  by_cases hcmd : (encode i).fmt = .cmd4
  · have hstands := hs
    rw [standsAt, hcmd] at hstands
    obtain ⟨c, rest, hc, -, hport⟩ := hstands
    rw [nextElement_command hover (by simp [hc]), ← hcmd]
    exact congrArg some (fetch_of_standsAt hs (by rw [State.port, hc]; exact hport))
  · obtain ⟨hc, hf⟩ := hfmt.resolve_left hcmd
    rw [nextElement_stream hover hc hf]
    exact congrArg some (fetch_of_standsAt hs (by rw [State.port, hc, encode_port i hcmd]))

/-! ## Register writes -/

section
variable {s : State}

theorem writeZlib_idle {b : Bool} (h : s.fsm.state = .idle) : writeZlib b s = { s with cfg.zlib := b } := if_pos h

theorem writeZlib_busy {b : Bool} (h : s.fsm.state ≠ .idle) : writeZlib b s = s := if_neg h

theorem startSession_idle (h : s.fsm.state = .idle) :
    startSession s = { s with fsm.state := if s.cfg.zlib = true then .zhdr else .hdr } := if_pos h

theorem startSession_busy (h : s.fsm.state ≠ .idle) : startSession s = s := if_neg h

theorem writeCtrl_noStart {v : BitVec 64} (h : s.fsm.state = .idle) (h0 : v.getLsbD 0 = false) :
    writeCtrl v s = { s with cfg.zlib := v.getLsbD 1 } := by
  simp only [writeCtrl, h0, writeZlib_idle h, Bool.false_eq_true, if_false]

theorem writeCtrl_start {v : BitVec 64} (h : s.fsm.state = .idle) (h0 : v.getLsbD 0 = true) : writeCtrl v s =
    { s with cfg.zlib := v.getLsbD 1, fsm.state := if v.getLsbD 1 = true then .zhdr else .hdr } := by
  simp only [writeCtrl, h0, writeZlib_idle h, if_true]
  exact startSession_idle h

theorem writeCtrl_busy {v : BitVec 64} (h : s.fsm.state ≠ .idle) : writeCtrl v s = s := by
  simp only [writeCtrl, writeZlib_busy h, startSession_busy h, ite_self]

theorem writeCfgT_accepted {v : BitVec 64} (h : s.fsm.state = .idle) (h1 : 1 ≤ v.toNat % 65536)
    (h2 : v.toNat % 65536 ≤ 32768) : writeCfgT v s = { s with cfg.flushT := v.setWidth 16 } :=
  if_pos ⟨h, by rwa [BitVec.toNat_setWidth], by rwa [BitVec.toNat_setWidth]⟩

theorem writeCfgT_ignored {v : BitVec 64}
    (h : s.fsm.state ≠ .idle ∨ v.toNat % 65536 = 0 ∨ 32768 < v.toNat % 65536) : writeCfgT v s = s := by
  refine if_neg fun ⟨hst, h1, h2⟩ => ?_
  rw [BitVec.toNat_setWidth] at h1 h2
  have hmax : v.toNat % 65536 ≤ 32768 := h2
  have hn := h.resolve_left (not_not_intro hst)
  omega

theorem writeReg_busy {r : HostReg} {v : BitVec 64} (h : s.fsm.state ≠ .idle) : writeReg r v s = s := by
  cases r with
  | ctrl => exact writeCtrl_busy h
  | cfgT => exact writeCfgT_ignored (.inl h)
  | status | errOffset | inBits | outBytes => rfl

theorem writeReg_readOnly {r : HostReg} {v : BitVec 64} (hc : r ≠ .ctrl) (hf : r ≠ .cfgT) : writeReg r v s = s := by
  cases r with
  | ctrl => exact absurd rfl hc
  | cfgT => exact absurd rfl hf
  | status | errOffset | inBits | outBytes => rfl

/-- A step with an action of the host's, other than `pass`, is that action. -/
theorem step_action {a : HostAction} {rest : List HostAction} (h : s.host.actions = a :: rest) (ha : a ≠ .pass) :
    step s = .next (hostAction a { s with host.actions := rest }) := by
  simp only [step, h]

end

/-- Settles O46: the step is the action, and each clause is an equation of the write. -/
theorem registerWritesObeyAccessRules : Obligations.RegisterWritesObeyAccessRules := by
  refine ⟨fun s r v rest ha => ?_, fun s b rest ha => ?_, fun s rest ha => ?_⟩ <;>
    rw [step_action ha (by simp)] <;> simp only [hostAction, Host.Outcome.next.injEq]
  · refine ⟨fun hst => writeReg_busy hst, fun hc hf => writeReg_readOnly hc hf, ?_, ?_, ?_, ?_⟩
    · rintro hst rfl h0
      exact writeCtrl_noStart hst h0
    · rintro hst rfl h0
      exact writeCtrl_start hst h0
    · rintro hst rfl h1 h2
      exact writeCfgT_accepted hst h1 h2
    · rintro hst rfl h
      exact writeCfgT_ignored (.inr h)
  · exact ⟨fun hst => writeZlib_idle hst, fun hst => writeZlib_busy hst⟩
  · exact ⟨fun hst => startSession_idle hst, fun hst => startSession_busy hst⟩

/-! ## Register reads -/

/-- A field placed at bit `n` of a register. -/
theorem getLsbD_field {m : Nat} (x : BitVec m) {n k : Nat} (hk : k < 64) :
    (x.setWidth 64 <<< n).getLsbD k = (decide (n ≤ k) && x.getLsbD (k - n)) := by
  by_cases h : n ≤ k <;> simp [hk, h]

/-- A flag placed at bit `n` of a register. -/
theorem getLsbD_flag (b : Bool) {n k : Nat} (hk : k < 64) :
    ((BitVec.ofBool b).setWidth 64 <<< n).getLsbD k = (decide (k = n) && b) := by
  have hiff : (n ≤ k ∧ k - n = 0) ↔ k = n := by omega
  rw [getLsbD_field _ hk, BitVec.getLsbD_ofBool, ← Bool.and_assoc, ← Bool.decide_and, decide_eq_decide.mpr hiff]

/-- The bits of STATUS (10_state R140): each field owns its own. -/
theorem statusWord_getLsbD (w : Bool) (s : State) {k : Nat} (hk : k < 64) : (statusWord w s).getLsbD k =
    (s.fsm.state.code.getLsbD k || decide (k = 5) && doneFlag s || decide (k = 6) && errorFlag s
      || decide (k = 7) && w || decide (k = 8) && waitOut s || decide (9 ≤ k) && s.err.kind.code.getLsbD (k - 9)
      || decide (13 ≤ k) && s.fsm.bfinalR.getLsbD (k - 13) || decide (14 ≤ k) && s.fsm.btypeR.getLsbD (k - 14)) := by
  simp only [statusWord, BitVec.getLsbD_or, getLsbD_flag _ hk]
  simp only [getLsbD_field _ hk, BitVec.getLsbD_setWidth, hk, decide_true, Bool.true_and]

theorem statusWord_high (w : Bool) (s : State) {k : Nat} (hk : 16 ≤ k) : (statusWord w s).getLsbD k = false := by
  by_cases h64 : k < 64
  · rw [statusWord_getLsbD w s h64, BitVec.getLsbD_of_ge _ k (by omega), BitVec.getLsbD_of_ge _ (k - 9) (by omega),
      BitVec.getLsbD_of_ge _ (k - 13) (by omega), BitVec.getLsbD_of_ge _ (k - 14) (by omega)]
    have h5 : k ≠ 5 := by omega
    have h6 : k ≠ 6 := by omega
    have h7 : k ≠ 7 := by omega
    have h8 : k ≠ 8 := by omega
    simp [h5, h6, h7, h8]
  · exact BitVec.getLsbD_of_ge _ k (by omega)

section
variable (w : Bool) (s : State)

theorem statusWord_done : (statusWord w s).getLsbD 5 = doneFlag s := by
  rw [statusWord_getLsbD w s (by decide), BitVec.getLsbD_of_ge _ 5 (by decide)]
  simp

theorem statusWord_error : (statusWord w s).getLsbD 6 = errorFlag s := by
  rw [statusWord_getLsbD w s (by decide), BitVec.getLsbD_of_ge _ 6 (by decide)]
  simp

theorem statusWord_waitIn : (statusWord w s).getLsbD 7 = w := by
  rw [statusWord_getLsbD w s (by decide), BitVec.getLsbD_of_ge _ 7 (by decide)]
  simp

theorem statusWord_waitOut : (statusWord w s).getLsbD 8 = waitOut s := by
  rw [statusWord_getLsbD w s (by decide), BitVec.getLsbD_of_ge _ 8 (by decide)]
  simp

theorem statusWord_bfinal : (statusWord w s).getLsbD 13 = (s.fsm.bfinalR == 1) := by
  have hbit : ∀ b : BitVec 1, b.getLsbD 0 = (b == 1) := by decide
  rw [statusWord_getLsbD w s (by decide), BitVec.getLsbD_of_ge _ 13 (by decide),
    BitVec.getLsbD_of_ge _ (13 - 9) (by decide), ← hbit]
  simp

theorem statusWord_state : (statusWord w s).extractLsb' 0 5 = s.fsm.state.code := by
  ext i hi
  rw [BitVec.getElem_extractLsb', statusWord_getLsbD w s (by omega)]
  interval_cases i <;> simp

theorem statusWord_errKind : (statusWord w s).extractLsb' 9 4 = s.err.kind.code := by
  ext i hi
  rw [BitVec.getElem_extractLsb', statusWord_getLsbD w s (by omega), BitVec.getLsbD_of_ge _ (9 + i) (by omega)]
  interval_cases i <;> simp

theorem statusWord_btype : (statusWord w s).extractLsb' 14 2 = s.fsm.btypeR := by
  ext i hi
  rw [BitVec.getElem_extractLsb', statusWord_getLsbD w s (by omega), BitVec.getLsbD_of_ge _ (14 + i) (by omega)]
  interval_cases i <;> simp

end

/-- The codes of R120 and R1101 are those of the printed lists. -/
theorem code_of_mem_stateCodes : ∀ p ∈ stateCodes, p.1.code = p.2 := by decide

theorem code_of_mem_errorCodes : ∀ p ∈ errorCodes, p.1.code = p.2 := by decide

theorem mem_stateCodes (st : FsmState) : (st, st.code) ∈ stateCodes := by cases st <;> decide

theorem mem_errorCodes (k : ErrKind) : (k, k.code) ∈ errorCodes := by cases k <;> decide

/-- CTRL shows ZLIB_EN in bit 1 and nothing else. -/
theorem readReg_ctrl_getLsbD (s : State) (k : Nat) : (readReg .ctrl s).getLsbD k = (decide (k = 1) && s.cfg.zlib) := by
  by_cases hk : k < 64
  · exact getLsbD_flag _ hk
  · rw [BitVec.getLsbD_of_ge _ k (by omega), decide_eq_false (by omega), Bool.false_and]

/-- A counter below the register's range is shown whole. -/
theorem toNat_counter {n : Nat} (h : n < 2 ^ 64) : (BitVec.ofNat 64 n).toNat = n := by
  rw [BitVec.toNat_ofNat, Nat.mod_eq_of_lt h]

/-- Settles O47: each field of STATUS is read off its bits. -/
theorem registerViewShowsState : Obligations.RegisterViewShowsState := by
  refine ⟨fun st => ⟨_, mem_stateCodes st⟩, fun k => ⟨_, mem_errorCodes k⟩, fun s => ?_⟩
  have hstate : (readReg .status s).extractLsb' 0 5 = s.fsm.state.code := statusWord_state _ s
  have hkind : (readReg .status s).extractLsb' 9 4 = s.err.kind.code := statusWord_errKind _ s
  refine ⟨fun c h => ?_, fun c h => ?_, hstate, statusWord_done _ s, statusWord_error _ s, statusWord_waitIn _ s,
    statusWord_waitOut _ s, hkind, statusWord_bfinal _ s, statusWord_btype _ s, fun k => statusWord_high _ s,
    readReg_ctrl_getLsbD s 0, readReg_ctrl_getLsbD s 1, fun k hk => ?_, ?_, toNat_counter, toNat_counter, toNat_counter⟩
  · have hc := code_of_mem_stateCodes _ h
    exact ⟨hc, hstate.trans hc⟩
  · have hc := code_of_mem_errorCodes _ h
    exact ⟨hc, hkind.trans hc⟩
  · rw [readReg_ctrl_getLsbD, decide_eq_false (by omega), Bool.false_and]
  · exact BitVec.toNat_setWidth_of_le (by decide)

/-! ## What every step of the core can change

A small Hoare logic for the `Run`s the meanings are written in. `Ends w s P r` says what a run that began in `s` answers and
where it may stop, for a step before which `w` bits of a word have been seen at the cursor. `Change w s t` says, component by
component, all that a step from `s` can have done to the storage; the rules of the whole machine are read off it. -/

/-- The bit reader after a step: the cursor has moved on, or one byte has come in, or the end of input has. -/
inductive ReaderChange (s t : State) : Prop where
  | moved (n : Nat) (h : Moved n s t)
  | refilled (b : Byte) (hend : s.rd.srcEnd = false)
      (h : t.rd = { s.rd with inbuf := s.rd.inbuf ++ [b], readbits := s.rd.readbits + 8 })
  | ended (h : t.rd = { s.rd with srcEnd := true })

/-- The window after a step: as it was, or one byte appended, or one byte handed to the sink by FLUSH. -/
inductive WindowChange (s t : State) : Prop where
  | same (h : t.win = s.win)
  | appended (b : Byte) (h : t.win = (append b s).win)
  | flushed (hst : s.fsm.state = .flush) (h : t.win = { s.win with flushed := s.win.flushed + 1 })

/-- The configuration after a step: as it was, or, in IDLE, with one field written (10_state R141). -/
inductive ConfigChange (s t : State) : Prop where
  | same (h : t.cfg = s.cfg)
  | zlib (hst : s.fsm.state = .idle) (b : Bool) (h : t.cfg = { s.cfg with zlib := b })
  | flushT (hst : s.fsm.state = .idle) (v : BitVec 16) (hv : 1 ≤ v.toNat ∧ v.toNat ≤ Config.windowSize)
      (h : t.cfg = { s.cfg with flushT := v })

/-- The arrays have their sizes (10_state R110, R126). -/
structure ArraySizes (s : State) : Prop where
  clLen : s.tbl.clLen.length = Config.clAlphabet
  llLen : s.tbl.llLen.length = Config.llAlphabet
  dLen : s.tbl.dLen.length = Config.dAlphabet
  lens : s.fsm.lens.length = Config.lensCapacity

/-- All that a step from `s` can have done to the storage, where `w` bits of the step's word have been seen at the cursor. -/
structure Change (w : Nat) (s t : State) : Prop where
  reader : ReaderChange s t
  cursor : s.rd.offset + w ≤ s.rd.readbits → t.rd.offset ≤ t.rd.readbits
  window : WindowChange s t
  config : ConfigChange s t
  sizes : ArraySizes s → ArraySizes t

/-- Where a run that began in `s` may stop short: a hold only while the input has not ended, a raise only between the cursor
and the last bit seen. -/
def StopOk (w : Nat) (s : State) : Stop → Prop
  | .hold => s.rd.srcEnd = false
  | .raise _ o => s.rd.offset ≤ o ∧ (s.rd.offset + w ≤ s.rd.readbits → o ≤ s.rd.readbits)
  | .fault _ => True
  | .refuse _ => True

/-- A run that began in `s` answers something of which `P` holds, or stops where it may. -/
inductive Ends {α : Type} (w : Nat) (s : State) (P : α → Prop) : Run α → Prop where
  | ok {a : α} (h : P a) : Ends w s P (.ok a)
  | stop {e : Stop} (h : StopOk w s e) : Ends w s P (.error e)

/-- Every next state of an outcome is a `Change` of `s`. -/
def Changes (w : Nat) (s : State) (o : Host.Outcome State Fault Refusal) : Prop := ∀ t, o = .next t → Change w s t

/-! ### Rules -/

section
variable {α β : Type} {w : Nat} {s t : State}

theorem Ends.bind {P : α → Prop} {Q : β → Prop} {r : Run α} {k : α → Run β} (h : Ends w s P r)
    (hk : ∀ a, P a → Ends w s Q (k a)) : Ends w s Q (r >>= k) := by
  cases h with
  | ok h => exact hk _ h
  | stop h => exact .stop h

theorem Ends.imp {P Q : α → Prop} {r : Run α} (h : Ends w s P r) (hpq : ∀ a, P a → Q a) : Ends w s Q r := by
  cases h with
  | ok h => exact .ok (hpq _ h)
  | stop h => exact .stop h

theorem Ends.fault {P : α → Prop} (f : Fault) : Ends w s P (.error (.fault f)) := .stop trivial

theorem Ends.refuse {P : α → Prop} (r : Refusal) : Ends w s P (.error (.refuse r)) := .stop trivial

theorem Ends.ite {P : α → Prop} {c : Prop} [Decidable c] {r r' : Run α} (h : c → Ends w s P r)
    (h' : ¬c → Ends w s P r') : Ends w s P (if c then r else r') := by
  split
  · exact h ‹_›
  · exact h' ‹_›

theorem Ends.checked {P : State → Prop} {b : Bool} {r : Run State} (h : Ends w s P r) : Ends w s P (checked b r) := by
  cases b with
  | true => exact h
  | false => exact .refuse _

theorem Ends.raise_past {P : α → Prop} (k : ErrKind) (s : State) (n : Nat) :
    Ends n s P (.error (.raise k (s.advance n).rd.offset)) :=
  .stop ⟨Nat.le_add_right _ _, id⟩

theorem Ends.raise_at {P : α → Prop} (k : ErrKind) (s : State) (w : Nat) :
    Ends w s P (.error (.raise k s.rd.offset)) :=
  .stop ⟨le_refl _, fun h => by omega⟩

/-- A step moves the cursor by `n` bits that are there. -/
theorem Change.moved {n : Nat} (hrd : Moved n s t)
    (hn : s.rd.offset + w ≤ s.rd.readbits → s.rd.offset + n ≤ s.rd.readbits) (hwin : WindowChange s t)
    (hcfg : t.cfg = s.cfg) (hsz : ArraySizes s → ArraySizes t) : Change w s t where
  reader := .moved n hrd
  cursor h := by rw [hrd]; exact hn h
  window := hwin
  config := .same hcfg
  sizes := hsz

theorem ArraySizes.of_eq (htbl : t.tbl = s.tbl) (hlens : t.fsm.lens = s.fsm.lens) (h : ArraySizes s) : ArraySizes t := by
  obtain ⟨h1, h2, h3, h4⟩ := h
  exact ⟨htbl ▸ h1, htbl ▸ h2, htbl ▸ h3, hlens ▸ h4⟩

/-- A step that only moves the cursor and writes registers of the FSM other than LENS. -/
theorem Change.of_moved {n : Nat} (hrd : Moved n s t)
    (hn : s.rd.offset + w ≤ s.rd.readbits → s.rd.offset + n ≤ s.rd.readbits) (hwin : t.win = s.win)
    (hcfg : t.cfg = s.cfg) (htbl : t.tbl = s.tbl) (hlens : t.fsm.lens = s.fsm.lens) : Change w s t :=
  .moved hrd hn (.same hwin) hcfg (.of_eq htbl hlens)

/-- A step that only moves past its word. -/
theorem Change.passed (hrd : Moved w s t) (hwin : t.win = s.win) (hcfg : t.cfg = s.cfg) (htbl : t.tbl = s.tbl)
    (hlens : t.fsm.lens = s.fsm.lens) : Change w s t :=
  .of_moved hrd id hwin hcfg htbl hlens

/-- A step that leaves the storage alone. -/
theorem Change.stay (hrd : t.rd = s.rd) (hwin : t.win = s.win) (hcfg : t.cfg = s.cfg) (htbl : t.tbl = s.tbl)
    (hlens : t.fsm.lens = s.fsm.lens) : Change w s t :=
  .of_moved (n := 0) hrd (fun h => by omega) hwin hcfg htbl hlens

theorem Change.mono {v : Nat} (h : Change v s t)
    (hv : s.rd.offset + w ≤ s.rd.readbits → s.rd.offset + v ≤ s.rd.readbits) : Change w s t :=
  { h with cursor := fun hw => h.cursor (hv hw) }

theorem Changes.mono {v : Nat} {o : Host.Outcome State Fault Refusal} (h : Changes v s o)
    (hv : s.rd.offset + w ≤ s.rd.readbits → s.rd.offset + v ≤ s.rd.readbits) : Changes w s o :=
  fun t ht => (h t ht).mono hv

theorem holdInput_change (h : s.rd.srcEnd = false) : Change w s (holdInput s) := by
  have hsz : ArraySizes s → ArraySizes (holdInput s) := .of_eq (holdInput_tbl s) (by rw [holdInput_fsm])
  have hwin : WindowChange s (holdInput s) := .same (holdInput_win s)
  have hcfg : ConfigChange s (holdInput s) := .same (holdInput_cfg s)
  rcases holdInput_cases s with ⟨b, rest, -, ht⟩ | ⟨-, -, ht⟩ | ⟨-, -, ht⟩ <;> rw [ht] at hsz hwin hcfg ⊢
  · exact ⟨.refilled b h rfl, fun _ => by simp only; omega, hwin, hcfg, hsz⟩
  · exact ⟨.ended rfl, fun _ => by simp only; omega, hwin, hcfg, hsz⟩
  · exact ⟨.moved 0 rfl, fun _ => by omega, hwin, hcfg, hsz⟩

/-- Whatever becomes of the host's side meanwhile (a command that raises has left its queue). -/
theorem takeFault_change {k : ErrKind} {o : Nat} (host : HostSide) (h : StopOk w s (.raise k o)) :
    Change w s (takeFault k o { s with host := host }) := by
  obtain ⟨hle, ho⟩ := h
  have hrd : Moved (o - s.rd.offset) s (takeFault k o { s with host := host }) := by
    simp [Moved, Nat.add_sub_cancel' hle]
  exact .of_moved hrd (fun hw => by have := ho hw; omega) rfl rfl rfl rfl

theorem settle_changes {r : Run State} (h : Ends w s (Change w s) r) : Changes w s (settle s r) := by
  intro t ht
  rcases settle_next ht with rfl | ⟨rfl, rfl⟩ | ⟨k, o, rfl, rfl⟩ <;> cases h
  · assumption
  · exact holdInput_change ‹_›
  · exact takeFault_change s.host ‹_›

theorem settleCommand_changes {r : Run State} (h : Ends w s (Change w s) r) : Changes w s (settleCommand s r) := by
  intro t ht
  rcases settleCommand_next ht with rfl | ⟨rfl, rfl⟩ | ⟨k, o, rfl, rfl⟩ <;> cases h
  · assumption
  · exact holdInput_change ‹_›
  · exact takeFault_change (popCommand s).host ‹_›

/-! ### The shared operations -/

/-- Missing input: the end of the stream, where it is known, is raised no further on than bits have been seen. -/
theorem Ends.missing {P : α → Prop} {o : Nat} (hle : s.rd.offset ≤ o)
    (ho : s.rd.offset + w ≤ s.rd.readbits → o ≤ s.rd.readbits) :
    Ends w s P (if s.rd.srcEnd then .error (.raise .endOfStream o) else .error .hold) := by
  cases h : s.rd.srcEnd with
  | true => exact .stop ⟨hle, ho⟩
  | false => exact .stop h

theorem takeField_ends (m n : Nat) (hm : s.rd.offset + w ≤ s.rd.readbits → s.rd.offset + m ≤ s.rd.readbits) :
    Ends w s (fun p => s.rd.offset + (m + n) ≤ s.rd.readbits ∧ p.2 = s.advance (m + n)) (takeField n (s.advance m)) := by
  rw [takeField_eq]
  exact .ite (fun h => .ok ⟨by simpa [Nat.add_assoc] using h, advance_advance s m n⟩) fun _ =>
    .missing (Nat.le_add_right _ _) hm

theorem takeExtra_ends (m : Nat) (row : Nat × Nat)
    (hm : s.rd.offset + w ≤ s.rd.readbits → s.rd.offset + m ≤ s.rd.readbits) :
    Ends w s (fun p => s.rd.offset + (m + row.1) ≤ s.rd.readbits ∧ p.2 = s.advance (m + row.1))
      (takeExtra row (s.advance m)) :=
  (takeField_ends m row.1 hm).bind fun _ h => .ok h

end

/-! ### The code-length sequence and the window -/

section
variable {w : Nat} {s t : State}

theorem totalLengths_le (s : State) : totalLengths s ≤ Config.lensCapacity := by
  have h1 := s.fsm.hlitR.isLt
  have h2 := s.fsm.hdistR.isLt
  simp only [totalLengths, Config.lensCapacity]
  omega

/-- The tail of a repeat symbol, `n` bits into the step. -/
theorem repeatLength_ends {n : Nat} (r : Nat) (v : CodeLen) (hn : s.rd.offset + n ≤ s.rd.readbits) :
    Ends w s (Change w s) (repeatLength r v (s.advance n)) := by
  rcases repeatLength_cases r v (s.advance n) with ⟨-, h⟩ | ⟨hle, h⟩ <;> rw [h]
  · exact .stop ⟨by simp, fun _ => by simpa using hn⟩
  · refine .ok <| .moved (n := n) rfl (fun _ => hn) (.same rfl) rfl fun hs => ⟨hs.clLen, hs.llLen, hs.dLen, ?_⟩
    have hcap := totalLengths_le (s.advance n)
    have hlen := hs.lens
    simp only [advance_fsm] at hle ⊢
    rw [setRun_length _ _ _ _ (by omega), hlen]

/-- Appending one byte, `n` bits into the step, with LENS as before. -/
theorem appended_change {n : Nat} (b : Byte) (hrd : Moved n s t)
    (hn : s.rd.offset + w ≤ s.rd.readbits → s.rd.offset + n ≤ s.rd.readbits) (hwin : t.win = (append b s).win)
    (hcfg : t.cfg = s.cfg) (htbl : t.tbl = s.tbl) (hlens : t.fsm.lens = s.fsm.lens) : Change w s t :=
  .moved hrd hn (.appended b hwin) hcfg (.of_eq htbl hlens)

theorem flushCheck_fsm_lens (next : FsmState) (s : State) : (flushCheck next s).fsm.lens = s.fsm.lens := by
  rw [flushCheck_fsm]
  split <;> rfl

/-- The same with FlushCheck at the end of the step (41_history_window R512). -/
theorem flushCheck_appended_change {n : Nat} (next : FsmState) (b : Byte) (hrd : Moved n s t)
    (hn : s.rd.offset + w ≤ s.rd.readbits → s.rd.offset + n ≤ s.rd.readbits) (hwin : t.win = (append b s).win)
    (hcfg : t.cfg = s.cfg) (htbl : t.tbl = s.tbl) (hlens : t.fsm.lens = s.fsm.lens) :
    Change w s (flushCheck next t) :=
  appended_change b ((flushCheck_rd next t).trans hrd) hn ((flushCheck_win next t).trans hwin)
    ((flushCheck_cfg next t).trans hcfg) ((flushCheck_tbl next t).trans htbl) ((flushCheck_fsm_lens next t).trans hlens)

theorem appendBackref_ends (d : Nat) : Ends w s (fun t => ∃ b, t = append b s) (appendBackref d s) := by
  rw [appendBackref_eq]
  refine .ite (fun _ => .refuse _) fun _ => .ite (fun _ => .raise_at _ s w) fun _ => ?_
  cases s.win.mem.read ((s.win.size - d) % Config.windowSize) with
  | none => exact .fault _
  | some b => exact .ok ⟨b, rfl⟩

theorem winByte_ends (j : Nat) : Ends w s (fun _ => True) (winByte j s) := by
  unfold winByte
  split
  · exact .ok trivial
  · exact .fault _

theorem winBytes_ends (j n : Nat) : Ends w s (fun _ => True) (winBytes j n s) := by
  induction n generalizing j with
  | zero => exact .ok trivial
  | succ n ih => exact (winByte_ends j).bind fun _ _ => (ih (j + 1)).bind fun _ _ => .ok trivial

theorem buildTable_ends (lens : List CodeLen) (h : t.rd = s.rd) : Ends w s (fun _ => True) (buildTable lens t) := by
  unfold buildTable
  split
  · exact .ok trivial
  · rw [h]; exact .raise_at _ s w

/-- `Decode` moves past a codeword whose bits are there, or stops with the cursor where it was. -/
theorem decodeWith_ends (lens : List CodeLen) : Ends w s
    (fun p => s.rd.offset + codeLength lens p.1 ≤ s.rd.readbits ∧ p.2 = s.advance (codeLength lens p.1))
    (decodeWith lens s) := by
  have hcases := decodeWith_cases lens s
  generalize decodeWith lens s = r at hcases
  rcases hcases with ⟨sym, -, -, hb, rfl⟩ | ⟨k, -, rfl⟩ | ⟨hend, rfl⟩
  · exact .ok ⟨hb, rfl⟩
  · exact .raise_at k s w
  · exact .stop hend

theorem takeCode_ends (n : Nat) : Ends w s (fun p => s.rd.offset + n ≤ s.rd.readbits ∧ p.2 = s.advance n)
    (takeCode n s) := by
  rw [takeCode_eq]
  exact .ite (fun h => .ok ⟨h, rfl⟩) fun _ => .missing (le_refl _) fun _ => by omega

theorem peekField_ends (n : Nat) : Ends w s (fun _ => True) (peekField n s) := by
  rw [peekField_eq]
  exact .ite (fun _ => .ok trivial) fun _ => .missing (le_refl _) fun _ => by omega

theorem peekCode_ends (n : Nat) : Ends w s (fun _ => True) (peekCode n s) := by
  rw [peekCode_eq]
  exact .ite (fun _ => .ok trivial) fun _ => .missing (le_refl _) fun _ => by omega

theorem discard_ends (n : Nat) : Ends w s (fun t => s.rd.offset + n ≤ s.rd.readbits ∧ t = s.advance n)
    (discard n s) := by
  rw [discard_eq]
  exact .ite (fun h => .ok ⟨h, rfl⟩) fun _ => .missing (le_refl _) fun _ => by omega

/-- A probe of the next bits answers 0 where the input has ended. -/
theorem Ends.probe (c : Prop) [Decidable c] (b : Bool) : Ends w s (fun _ => True)
    (if c then .ok b else if s.rd.srcEnd then .ok false else .error .hold : Run Bool) := by
  refine .ite (fun _ => .ok trivial) fun _ => ?_
  cases h : s.rd.srcEnd with
  | true => exact .ok trivial
  | false => exact .stop h

theorem lastN_ends (n : Nat) : Ends w s (fun _ => True) (lastN n s) := by
  unfold lastN
  exact .ite (fun _ => .ok trivial) fun _ => (winBytes_ends _ n).bind fun _ _ => .ok trivial

theorem winRead_ends (i : Nat) : Ends w s (fun _ => True) (winRead i s) := by
  unfold winRead
  exact .ite (fun _ => (winByte_ends i).bind fun _ _ => .ok trivial) fun _ => .ok trivial

end

/-! ### The instructions -/

section
variable (s : State)

theorem execZlibHeader_changes (cmf flg : BitVec 8) : Changes 16 s (execZlibHeader cmf flg s) :=
  settle_changes <| .ite (fun _ => .raise_past _ s 16) fun _ => .ok <| .passed rfl rfl rfl rfl rfl

theorem blockHeader_changes (f : BitVec 1) (ty : BitVec 2) (next : FsmState) :
    Changes 3 s (settle s (.ok (blockHeader f ty next s))) :=
  settle_changes <| .ok <| .passed rfl rfl rfl rfl rfl

theorem execStoredHeader_changes (len nlen : BitVec 16) : Changes (alignPad s + 32) s (execStoredHeader len nlen s) :=
  settle_changes <| .ite (fun _ => .raise_past _ s _) fun _ => .ok <| .passed rfl rfl rfl rfl rfl

theorem execStoredByte_changes (b : BitVec 8) : Changes 8 s (execStoredByte b s) :=
  settle_changes <| .ok <| flushCheck_appended_change (n := 8) _ b rfl id rfl rfl rfl rfl

theorem execDynHeader_changes (hlit hdist : BitVec 5) (hclen : BitVec 4) :
    Changes 14 s (execDynHeader hlit hdist hclen s) :=
  settle_changes <| .ok <| .moved (n := 14) rfl id (.same rfl) rfl
    fun h => ⟨List.length_replicate, h.llLen, h.dLen, h.lens⟩

theorem execCll_changes (len : BitVec 3) : Changes 3 s (execCll len s) := by
  refine settle_changes ?_
  split
  · exact .fault _
  · exact .ok <| .moved (n := 3) rfl id (.same rfl) rfl fun h => ⟨by simpa using h.clLen, h.llLen, h.dLen, h.lens⟩

theorem execClLit_changes (c : BitVec 4) : Changes (codeLength s.clLens c.toNat) s (execClLit c s) :=
  settle_changes <| .ite
    (fun _ => .ok <| .moved rfl id (.same rfl) rfl fun h => ⟨h.clLen, h.llLen, h.dLen, by simpa using h.lens⟩)
    fun _ => .fault _

/-- Extra bits after a codeword, then the run. -/
theorem repeat_ends (row : Nat × Nat) (v : State → CodeLen) (sym : Nat) :
    Ends (codeLength s.clLens sym) s (Change (codeLength s.clLens sym) s)
      (takeExtra row (pastCl sym s) >>= fun p => repeatLength p.1 (v p.2) p.2) :=
  (takeExtra_ends _ row id).bind fun ⟨r, _⟩ ⟨hb, ht⟩ => by subst ht; exact repeatLength_ends r _ hb

theorem execRep16_changes : Changes (codeLength s.clLens 16) s (execRep16 s) :=
  settle_changes <| .ite (fun _ => .raise_past _ s _) fun _ => repeat_ends s (2, 3) previousLength 16

theorem execZero17_changes : Changes (codeLength s.clLens 17) s (execZero17 s) :=
  settle_changes (repeat_ends s (3, 3) (fun _ => 0) 17)

theorem execZero18_changes : Changes (codeLength s.clLens 18) s (execZero18 s) :=
  settle_changes (repeat_ends s (7, 11) (fun _ => 0) 18)

theorem raise_past_changes (k : ErrKind) (n : Nat) :
    Changes n s (settle s (.error (.raise k (s.advance n).rd.offset))) :=
  settle_changes (.raise_past k s n)

theorem execLit_changes (b : BitVec 8) : Changes (codeLength s.llLens b.toNat) s (execLit b s) :=
  settle_changes <| .ok <| flushCheck_appended_change _ b rfl id rfl rfl rfl rfl

theorem execEob_changes : Changes (codeLength s.llLens 256) s (execEob s) :=
  settle_changes <| .ok <| .passed rfl rfl rfl rfl rfl

/-- In LEN_EXTRA the codeword has been passed before. -/
theorem readLength_changes (sym : Nat) : Changes 0 s (settle s (readLength sym s)) := by
  unfold readLength
  generalize lengthRow sym = row
  refine settle_changes ((takeExtra_ends (s := s) 0 row id).bind ?_)
  rintro ⟨len, _⟩ ⟨hb, rfl⟩
  exact .ok (.of_moved rfl (fun _ => hb) rfl rfl rfl rfl)

theorem lengthMeaning_changes (sym : Nat) : Changes (codeLength s.llLens sym) s (lengthMeaning sym s) := by
  unfold lengthMeaning
  split
  · exact (readLength_changes s sym).mono fun h => by omega
  · exact settle_changes (.ok (.passed rfl rfl rfl rfl rfl))

/-- In DIST_EXTRA the codeword has been passed before. -/
theorem readDistance_changes (sym : Nat) : Changes 0 s (settle s (readDistance sym s)) :=
  settle_changes <| (takeExtra_ends (s := s) 0 _ id).bind fun ⟨_, _⟩ ⟨hb, ht⟩ => by
    subst ht
    exact .ite (fun _ => .stop ⟨Nat.le_add_right _ _, fun _ => hb⟩)
      fun _ => .ok <| .of_moved rfl (fun _ => hb) rfl rfl rfl rfl

theorem distMeaning_changes (sym : Nat) : Changes (codeLength s.dLens sym) s (distMeaning sym s) := by
  unfold distMeaning
  split
  · exact (readDistance_changes s sym).mono fun h => by omega
  · exact settle_changes (.ok (.passed rfl rfl rfl rfl rfl))

end

/-! ### The commands -/

section
variable (s : State)

/-- A command that answers where it stands. -/
theorem answer_change (r : Response) : Change 0 s (answer r s) := .stay rfl rfl rfl rfl rfl

/-- A command that answers after `n` bits that are there. -/
theorem answer_advance_change (r : Response) {n : Nat} (hn : s.rd.offset + n ≤ s.rd.readbits) :
    Change 0 s (answer r (s.advance n)) := .of_moved rfl (fun _ => hn) rfl rfl rfl rfl

theorem answer_append_change (r : Response) (b : Byte) : Change 0 s (answer r (append b s)) :=
  appended_change (n := 0) b rfl id rfl rfl rfl rfl

/-- A command that looks at the input or the window and answers. -/
theorem answer_look_ends {α : Type} {P : α → Prop} {r : Run α} (h : Ends 0 s P r) (f : α → Response) :
    Ends 0 s (Change 0 s) (r >>= fun a => .ok (answer (f a) s)) :=
  h.bind fun _ _ => .ok (answer_change s _)

/-- A command that takes bits that are there and answers. -/
theorem answer_take_ends {r : Run (Nat × State)} {n : Nat → Nat}
    (h : Ends 0 s (fun p => s.rd.offset + n p.1 ≤ s.rd.readbits ∧ p.2 = s.advance (n p.1)) r) (f : Nat → Response) :
    Ends 0 s (Change 0 s) (r >>= fun p => .ok (answer (f p.1) p.2)) :=
  h.bind fun _ ⟨hb, ht⟩ => by
    rw [ht]; exact .ok (answer_advance_change s _ hb)

/-- DISCARD and ALIGN. -/
theorem answer_discard_ends (n : Nat) :
    Ends 0 s (Change 0 s) (discard n s >>= fun t => .ok (answer .completed t)) :=
  (discard_ends n).bind fun _ ⟨hb, ht⟩ => .ok (ht ▸ answer_advance_change s .completed hb)

theorem answer_appendBackref_ends (d : Nat) :
    Ends 0 s (Change 0 s) (appendBackref d s >>= fun t => .ok (answer .completed t)) :=
  (appendBackref_ends d).bind fun _ ⟨b, ht⟩ => .ok (ht ▸ answer_append_change s .completed b)

theorem cmdLastN_changes (n : Nat) : Changes 0 s (execCmdLastN n s) :=
  settleCommand_changes ((lastN_ends n).bind fun _ _ => .ok (answer_change s _))

theorem cmdWinRead_changes (i : Nat) : Changes 0 s (execCmdWinRead i s) :=
  settleCommand_changes ((winRead_ends i).bind fun _ _ => .ok (answer_change s _))

theorem cmdDecode_changes (table : TableSel) : Changes 0 s (execCmdDecode table s) :=
  settleCommand_changes (answer_take_ends s (decodeWith_ends _) .symbol)

end

/-! ### Every instruction -/

/-- The bits of a word of the format at the cursor; a command's word stands in its queue, and no bit of the input is its. -/
def wordWidth (f : Format) (w : Nat) (s : State) : Nat :=
  match f with
  | .zlibHdr16 => 16
  | .blockHdr3 => 3
  | .storedHdr32 => alignPad s + 32
  | .byte8 => 8
  | .dynHdr14 => 14
  | .cll3 => 3
  | .clSym5 => codeLength s.clLens w
  | .llSym9 => codeLength s.llLens w
  | .dSym5 => codeLength s.dLens w
  | .cmd4 => 0

/-- The bits of the instruction's word at the cursor. -/
def instrWidth (i : Instr) (s : State) : Nat := wordWidth (encode i).fmt (encode i).word s

theorem exec_changes (i : Instr) (s : State) : Changes (instrWidth i s) s (exec i s) := by
  cases i with
  | zlibHeader cmf flg => exact execZlibHeader_changes s cmf flg
  | blockStored f => exact blockHeader_changes s f _ _
  | blockFixed f => exact blockHeader_changes s f _ _
  | blockDynamic f => exact blockHeader_changes s f _ _
  | blockInvalid _ => exact raise_past_changes s _ 3
  | storedHeader len nlen => exact execStoredHeader_changes s len nlen
  | storedByte b => exact execStoredByte_changes s b
  | dynHeader hlit hdist hclen => exact execDynHeader_changes s hlit hdist hclen
  | cll len => exact execCll_changes s len
  | clLit c => exact execClLit_changes s c
  | rep16 => exact execRep16_changes s
  | zero17 => exact execZero17_changes s
  | zero18 => exact execZero18_changes s
  | clInvalid19 | clInvalid20 | clInvalid24 | llInvalid | dInvalid => exact raise_past_changes s _ _
  | lit b => exact execLit_changes s b
  | eob => exact execEob_changes s
  | len257 | len258 | len259 | len260 | len261 | len262 | len263 | len264 | len265 | len266 | len267 | len268 | len269
  | len270 | len271 | len272 | len273 | len274 | len275 | len276 | len277 | len278 | len279 | len280 | len281 | len282
  | len283 | len284 | len285 => exact lengthMeaning_changes s _
  | dist0 | dist1 | dist2 | dist3 | dist4 | dist5 | dist6 | dist7 | dist8 | dist9 | dist10 | dist11 | dist12 | dist13
  | dist14 | dist15 | dist16 | dist17 | dist18 | dist19 | dist20 | dist21 | dist22 | dist23 | dist24 | dist25 | dist26
  | dist27 | dist28 | dist29 => exact distMeaning_changes s _
  | cmdTakeField n =>
    have h : Ends 0 s (fun p => s.rd.offset + n ≤ s.rd.readbits ∧ p.2 = s.advance n) (takeField n s) := by
      simpa using takeField_ends (s := s) (w := 0) 0 n id
    exact settleCommand_changes (.checked (answer_take_ends s (n := fun _ => n) h .value))
  | cmdTakeCode n => exact settleCommand_changes (.checked (answer_take_ends s (n := fun _ => n) (takeCode_ends n) .value))
  | cmdPeekField n => exact settleCommand_changes (.checked (answer_look_ends s (peekField_ends n) .value))
  | cmdPeekCode n => exact settleCommand_changes (.checked (answer_look_ends s (peekCode_ends n) .value))
  | cmdDiscard n => exact settleCommand_changes (.checked (answer_discard_ends s n))
  | cmdAlign => exact settleCommand_changes (answer_discard_ends s _)
  | cmdStartsWith p => exact settleCommand_changes (.checked (answer_look_ends s (.probe _ _) .flag))
  | cmdHasBits n => exact settleCommand_changes (.checked (answer_look_ends s (.probe _ true) .flag))
  | cmdAppendLiteral b => exact settleCommand_changes (.ok (answer_append_change s .completed b))
  | cmdAppendBackref d => exact settleCommand_changes (answer_appendBackref_ends s d)
  | cmdLastN n => exact cmdLastN_changes s n
  | cmdWinRead i => exact cmdWinRead_changes s i
  | cmdBuild lens => exact settleCommand_changes (.checked (answer_look_ends s (buildTable_ends lens rfl) .table))
  | cmdDecode table => exact cmdDecode_changes s table
  | cmdReserved _ => exact settleCommand_changes (.refuse _)

/-! ### The internal steps -/

section
variable (s : State)

/-- A setup step builds its two tables, then writes (43_block_fsm R731, 44_code_lengths R840). -/
theorem setup_ends {t u : State} {ll d : List CodeLen} (hu : Change 0 s u) (ht : t.rd = s.rd) :
    Ends 0 s (Change 0 s) (buildTable ll t >>= fun _ => buildTable d t >>= fun _ => .ok u) :=
  (buildTable_ends ll ht).bind fun _ _ => (buildTable_ends d ht).bind fun _ _ => .ok hu

theorem fixedSetup_ends : Ends 0 s (Change 0 s) (fixedSetup s) := by
  refine setup_ends s (.moved (n := 0) rfl id (.same rfl) rfl fun h => ⟨h.clLen, ?_, ?_, h.lens⟩) rfl
  · simp only [fixedLl, List.length_append, List.length_replicate]
  · exact List.length_replicate

theorem dynClBuild_ends : Ends 0 s (Change 0 s) (dynClBuild s) :=
  (buildTable_ends (s := s) _ rfl).bind fun _ _ => .ok <| .stay rfl rfl rfl rfl rfl

/-- The split of LENS fills both arrays (44_code_lengths R840): HLIT+257 and HDIST+1 are at most their sizes. -/
theorem splitLengths_sizes (h : ArraySizes s) : ArraySizes (splitLengths s) := by
  have hlit := s.fsm.hlitR.isLt
  have hdist := s.fsm.hdistR.isLt
  have hlens := h.lens
  refine ⟨h.clLen, ?_, ?_, hlens⟩ <;>
    simp only [splitLengths, List.length_append, List.length_take, List.length_drop, List.length_replicate, hlens,
      Config.lensCapacity, Config.llAlphabet, Config.dAlphabet] <;>
    omega

theorem dynBuild_ends : Ends 0 s (Change 0 s) (dynBuild s) := by
  refine setup_ends s (.moved (n := 0) rfl id (.same rfl) rfl fun h => ?_) rfl
  exact .of_eq (s := splitLengths s) rfl rfl (splitLengths_sizes s h)

theorem copyByte_ends : Ends 0 s (Change 0 s) (copyByte s) :=
  (appendBackref_ends _).bind fun _ ⟨b, ht⟩ => by
    subst ht
    exact .ok (flushCheck_appended_change (n := 0) _ b rfl id rfl rfl rfl rfl)

theorem flushByte_ends (hst : s.fsm.state = .flush) : Ends 0 s (Change 0 s) (flushByte s) := by
  unfold flushByte emitByte
  exact .ite (fun _ => (winByte_ends _).bind fun _ _ => .ok (.moved (n := 0) rfl id (.flushed hst rfl) rfl (.of_eq rfl rfl)))
    fun _ => .ok (.stay rfl rfl rfl rfl rfl)

theorem blockEnd_ends : Ends 0 s (Change 0 s) (blockEnd s) := by
  unfold blockEnd
  exact .ite (fun _ => .ok (.stay rfl rfl rfl rfl rfl)) fun _ =>
    .ite (fun _ => .ok (.stay rfl rfl rfl rfl rfl)) fun _ => .ok (.stay rfl rfl rfl rfl rfl)

theorem internalStep_ends : Ends 0 s (Change 0 s) (internalStep s) := by
  cases hst : s.fsm.state <;> simp only [internalStep, hst]
  case fixedSetup => exact fixedSetup_ends s
  case dynClBuild => exact dynClBuild_ends s
  case dynBuild => exact dynBuild_ends s
  case copy => exact copyByte_ends s
  case flush => exact flushByte_ends s hst
  case blockEnd => exact blockEnd_ends s
  all_goals exact .ok (.stay rfl rfl rfl rfl rfl)

end

/-! ### The fetch -/

section
variable (s : State)

/-- A word that has been read stood at the cursor. -/
theorem readWord_ends (f : Format) : Ends 0 s
    (fun v => s.rd.offset ≤ s.rd.readbits → s.rd.offset + wordWidth f v s ≤ s.rd.readbits) (readWord f s) := by
  cases f with
  | zlibHdr16 =>
    refine (takeField_ends (s := s) 0 8 id).bind fun ⟨_, _⟩ ⟨h1, ht⟩ => ?_
    subst ht
    exact (takeField_ends 8 8 fun _ => h1).bind fun _ ⟨h2, _⟩ => .ok fun _ => h2
  | blockHdr3 =>
    refine (takeField_ends (s := s) 0 1 id).bind fun ⟨_, _⟩ ⟨h1, ht⟩ => ?_
    subst ht
    exact (takeField_ends 1 2 fun _ => h1).bind fun _ ⟨h2, _⟩ => .ok fun _ => h2
  | storedHdr32 =>
    refine (discard_ends (s := s) (alignPad s)).bind fun _ ⟨h1, ht⟩ => ?_
    subst ht
    refine (takeField_ends _ 16 fun _ => h1).bind fun ⟨_, _⟩ ⟨h2, ht⟩ => ?_
    subst ht
    exact (takeField_ends _ 16 fun _ => h2).bind fun _ ⟨h3, _⟩ => .ok fun _ => h3
  | byte8 => exact (takeField_ends (s := s) 0 8 id).bind fun _ ⟨h1, _⟩ => .ok fun _ => h1
  | dynHdr14 =>
    refine (takeField_ends (s := s) 0 5 id).bind fun ⟨_, _⟩ ⟨h1, ht⟩ => ?_
    subst ht
    refine (takeField_ends 5 5 fun _ => h1).bind fun ⟨_, _⟩ ⟨h2, ht⟩ => ?_
    subst ht
    exact (takeField_ends 10 4 fun _ => h2).bind fun _ ⟨h3, _⟩ => .ok fun _ => h3
  | cll3 => exact (takeField_ends (s := s) 0 3 id).bind fun _ ⟨h1, _⟩ => .ok fun _ => h1
  | clSym5 => exact (decodeWith_ends s.clLens).bind fun _ ⟨h1, _⟩ => .ok fun _ => h1
  | llSym9 => exact (decodeWith_ends s.llLens).bind fun _ ⟨h1, _⟩ => .ok fun _ => h1
  | dSym5 => exact (decodeWith_ends s.dLens).bind fun _ ⟨h1, _⟩ => .ok fun _ => h1
  | cmd4 =>
    simp only [readWord]
    split
    · exact .fault _
    · exact .ok fun h => h

/-- The instruction a word stands for has that word as its encoding. -/
theorem instrOf_ends (f : Format) (v : Nat) :
    Ends 0 s (fun i => (encode i).fmt = f ∧ (encode i).word = v) (instrOf f v s) := by
  unfold instrOf
  split
  · exact .ok (encode_of_decode ‹_›)
  · exact .refuse _
  · exact .fault _
  · exact .fault _

/-- A fetched instruction's word stands at the cursor. -/
theorem fetch_ends (f : Format) : Ends 0 s
    (fun i => s.rd.offset ≤ s.rd.readbits → s.rd.offset + instrWidth i s ≤ s.rd.readbits) (fetch f s) :=
  (readWord_ends s f).bind fun v hv => (instrOf_ends s f v).imp fun i ⟨hf, hw⟩ => by
    rw [instrWidth, hf, hw]; exact hv

/-- LEN_EXTRA runs a length symbol. -/
theorem fetchLength_ends : Ends 0 s (fun i => ∃ sym, exec i s = lengthMeaning sym s) (fetchLength s) := by
  unfold fetchLength
  refine .ite (fun ⟨hlo, hhi⟩ => ?_) fun _ => .fault _
  obtain ⟨k, hk⟩ := Nat.exists_eq_add_of_le hlo
  have hk29 : k < 29 := by omega
  rw [hk, instrOf, decode_lengthSymbol hk29]
  exact .ok ⟨_, exec_lengthInstrs hk29 s⟩

/-- DIST_EXTRA runs a distance symbol. -/
theorem fetchDistance_ends : Ends 0 s (fun i => ∃ sym, exec i s = distMeaning sym s) (fetchDistance s) := by
  unfold fetchDistance
  refine .ite (fun h => ?_) fun _ => .fault _
  have hk30 : s.fsm.symR.toNat < 30 := by omega
  rw [instrOf, decode_distSymbol hk30]
  exact .ok ⟨_, exec_distInstrs hk30 s⟩

end

/-! ### The step of the core -/

/-- The next element is read in some format, or is the symbol that SYM_R keeps. -/
theorem nextElement_some {s : State} {r : Run Instr} (h : nextElement s = some r) :
    (∃ f, r = fetch f s) ∨ (s.fsm.state = .lenExtra ∧ r = fetchLength s) ∨
      (s.fsm.state = .distExtra ∧ r = fetchDistance s) := by
  have hstream : (streamFormat s).map (fun f => fetch f s) = some r → ∃ f, r = fetch f s := fun h => by
    obtain ⟨f, -, rfl⟩ := Option.map_eq_some_iff.mp h
    exact ⟨f, rfl⟩
  unfold nextElement at h
  split at h
  · cases h
  · split at h
    · exact .inl ⟨.cmd4, (Option.some.inj h).symm⟩
    · split at h
      · exact .inr (.inl ⟨‹_›, (Option.some.inj h).symm⟩)
      · exact .inr (.inr ⟨‹_›, (Option.some.inj h).symm⟩)
      all_goals exact .inl (hstream h)

/-- A fetched element is run, or its fetch ends the step. -/
theorem coreStep_changes_of_element {s : State} {P : Instr → Prop} {r : Run Instr} (hn : nextElement s = some r)
    (h : Ends 0 s P r) (hexec : ∀ i, P i → Changes 0 s (exec i s)) : Changes 0 s (coreStep s) := by
  unfold coreStep
  cases h with
  | ok hi => simpa only [hn] using hexec _ hi
  | stop he => simpa only [hn] using settle_changes (.stop he)

theorem coreStep_changes (s : State) : Changes 0 s (coreStep s) := by
  cases hn : nextElement s with
  | none => simpa only [coreStep, hn] using settle_changes (internalStep_ends s)
  | some r =>
    rcases nextElement_some hn with ⟨f, rfl⟩ | ⟨hst, rfl⟩ | ⟨hst, rfl⟩
    · exact coreStep_changes_of_element hn (fetch_ends s f) fun i hi => (exec_changes i s).mono hi
    · refine coreStep_changes_of_element hn (fetchLength_ends s) fun i ⟨sym, hi⟩ => ?_
      rw [hi, lengthMeaning, if_pos hst]
      exact readLength_changes s sym
    · refine coreStep_changes_of_element hn (fetchDistance_ends s) fun i ⟨sym, hi⟩ => ?_
      rw [hi, distMeaning, if_pos hst]
      exact readDistance_changes s sym

/-! ### The step of the machine -/

section
variable {s t : State}

theorem Change.host_start {host : HostSide} (h : Change 0 { s with host := host } t) : Change 0 s t where
  reader := by
    obtain ⟨n, h⟩ | ⟨b, hend, h⟩ | h := h.reader
    · exact .moved n h
    · exact .refilled b hend h
    · exact .ended h
  cursor := h.cursor
  window := by
    obtain h | ⟨b, h⟩ | ⟨hst, h⟩ := h.window
    · exact .same h
    · exact .appended b h
    · exact .flushed hst h
  config := by
    obtain h | ⟨hst, b, h⟩ | ⟨hst, v, hv, h⟩ := h.config
    · exact .same h
    · exact .zlib hst b h
    · exact .flushT hst v hv h
  sizes hs := h.sizes ⟨hs.clLen, hs.llLen, hs.dLen, hs.lens⟩

/-- A host action that leaves the storage alone but for the configuration. -/
theorem Change.of_config (hcfg : ConfigChange s t) (hrd : t.rd = s.rd) (hwin : t.win = s.win) (htbl : t.tbl = s.tbl)
    (hlens : t.fsm.lens = s.fsm.lens) : Change 0 s t where
  reader := .moved 0 hrd
  cursor h := by rw [hrd]; exact h
  window := .same hwin
  config := hcfg
  sizes := .of_eq htbl hlens

theorem Change.refl (s : State) : Change 0 s s := .stay rfl rfl rfl rfl rfl

theorem writeZlib_change (b : Bool) (s : State) : Change 0 s (writeZlib b s) := by
  by_cases hst : s.fsm.state = .idle
  · rw [writeZlib_idle hst]
    exact .of_config (.zlib hst b rfl) rfl rfl rfl rfl
  · rw [writeZlib_busy hst]
    exact .refl s

theorem startSession_change (s : State) : Change 0 s (startSession s) := by
  by_cases hst : s.fsm.state = .idle
  · rw [startSession_idle hst]
    exact .stay rfl rfl rfl rfl rfl
  · rw [startSession_busy hst]
    exact .refl s

theorem writeCtrl_change (v : BitVec 64) (s : State) : Change 0 s (writeCtrl v s) := by
  by_cases hst : s.fsm.state = .idle
  · cases h0 : v.getLsbD 0 with
    | false => rw [writeCtrl_noStart hst h0]; exact .of_config (.zlib hst _ rfl) rfl rfl rfl rfl
    | true => rw [writeCtrl_start hst h0]; exact .of_config (.zlib hst _ rfl) rfl rfl rfl rfl
  · rw [writeCtrl_busy hst]
    exact .refl s

theorem writeCfgT_change (v : BitVec 64) (s : State) : Change 0 s (writeCfgT v s) := by
  unfold writeCfgT
  dsimp only
  split
  · rename_i h
    obtain ⟨hst, hv⟩ := h
    exact .of_config (.flushT hst _ hv rfl) rfl rfl rfl rfl
  · exact .refl s

theorem deliverByte_change (b : Byte) (s : State) : Change 0 s (deliverByte b s) := by
  obtain ⟨hreq, c, cs, -, h⟩ | ⟨-, h⟩ := deliverByte_cases b s <;> rw [h]
  · have hend : s.rd.srcEnd = false := by
      cases he : s.rd.srcEnd with
      | false => rfl
      | true => rw [inReq_of_srcEnd he] at hreq; cases hreq
    exact ⟨.refilled c hend rfl, fun hw => by simp only; omega, .same rfl, .same rfl, .of_eq rfl rfl⟩
  · exact .stay rfl rfl rfl rfl rfl

theorem hostAction_change (a : HostAction) (s : State) (ha : a ≠ .reset) : Change 0 s (hostAction a s) := by
  cases a with
  | write r v =>
    cases r with
    | ctrl => exact writeCtrl_change v s
    | cfgT => exact writeCfgT_change v s
    | status | errOffset | inBits | outBytes => exact .refl s
  | setZlib b => exact writeZlib_change b s
  | start => exact startSession_change s
  | reset => exact absurd rfl ha
  | deliver b => exact deliverByte_change b s
  | endInput => exact ⟨.ended rfl, fun h => h, .same rfl, .same rfl, .of_eq rfl rfl⟩
  | ready _ | issue _ => exact .stay rfl rfl rfl rfl rfl
  | pass => exact .refl s

/-- The step of the machine is the core's, or the host's next action. -/
theorem step_cases (s : State) :
    (∃ rest, step s = coreStep { s with host.actions := rest }) ∨
    (∃ a rest, s.host.actions = a :: rest ∧ step s = .next (hostAction a { s with host.actions := rest })) := by
  unfold step
  split
  · rename_i h
    exact .inl ⟨[], by rw [← h]⟩
  · exact .inl ⟨_, rfl⟩
  · exact .inr ⟨_, _, ‹_›, rfl⟩

/-- All that a step without a reset can have done. -/
theorem step_change (h : step s = .next t) (hr : resetting s = false) : Change 0 s t := by
  obtain ⟨rest, hs⟩ | ⟨a, rest, ha, hs⟩ := step_cases s <;> rw [hs] at h
  · exact (coreStep_changes _ t h).host_start
  · obtain rfl := Host.Outcome.next.inj h
    have hne : a ≠ .reset := by rintro rfl; simp [resetting, ha] at hr
    exact (hostAction_change a _ hne).host_start

end

/-! ## The storage stays sound -/

section
variable {s t : State}

theorem Sound.sizes (h : Sound s) : ArraySizes s := ⟨h.clLen, h.llLen, h.dLen, h.lens⟩

/-- Every position the window still holds after an Append holds a byte: the new one does, and no other is at its address. -/
theorem append_window (b : Byte) (h : Sound s) (j : Nat) (hj : j < s.win.size + 1)
    (hw : s.win.size + 1 ≤ j + Config.windowSize) :
    ∃ c, (append b s).win.mem.read (j % Config.windowSize) = some c := by
  rw [append_read]
  split
  · exact ⟨b, rfl⟩
  · rename_i hne
    have : j ≠ s.win.size := fun he => hne (by rw [he])
    exact h.window j (by omega) (by omega)

theorem ReaderChange.readbits (h : ReaderChange s t) (hs : s.rd.readbits = 8 * s.rd.inbuf.length) :
    t.rd.readbits = 8 * t.rd.inbuf.length := by
  obtain ⟨n, h⟩ | ⟨b, -, h⟩ | h := h <;> rw [h]
  · exact hs
  · simp only [List.length_append, List.length_singleton]; omega
  · exact hs

theorem WindowChange.memory (h : WindowChange s t) (hs : s.win.mem.wf = true) : t.win.mem.wf = true := by
  obtain h | ⟨b, h⟩ | ⟨-, h⟩ := h <;> rw [h]
  · exact hs
  · exact wf_write _ _ _ hs
  · exact hs

theorem WindowChange.window (h : WindowChange s t) (hs : Sound s) (j : Nat) (hj : j < t.win.size)
    (hw : t.win.size ≤ j + Config.windowSize) : ∃ c, t.win.mem.read (j % Config.windowSize) = some c := by
  obtain h | ⟨b, h⟩ | ⟨-, h⟩ := h <;> rw [h] at hj hw ⊢
  · exact hs.window j hj hw
  · exact append_window b hs j hj hw
  · exact hs.window j hj hw

theorem ConfigChange.threshold (h : ConfigChange s t)
    (hs : 1 ≤ s.cfg.flushT.toNat ∧ s.cfg.flushT.toNat ≤ Config.windowSize) :
    1 ≤ t.cfg.flushT.toNat ∧ t.cfg.flushT.toNat ≤ Config.windowSize := by
  obtain h | ⟨-, b, h⟩ | ⟨-, v, hv, h⟩ := h <;> rw [h]
  · exact hs
  · exact hs
  · exact hv

theorem Change.sound (h : Change 0 s t) (hs : Sound s) : Sound t where
  readbits := h.reader.readbits hs.readbits
  cursor := h.cursor hs.cursor
  memory := h.window.memory hs.memory
  window := h.window.window hs
  clLen := (h.sizes hs.sizes).clLen
  llLen := (h.sizes hs.sizes).llLen
  dLen := (h.sizes hs.sizes).dLen
  lens := (h.sizes hs.sizes).lens
  threshold := h.config.threshold hs.threshold

/-- The reset values of the storage (70_reset R1201). -/
theorem applyReset_sound (s : State) : Sound (applyReset s) where
  readbits := rfl
  cursor := le_refl 0
  memory := rfl
  window j hj := absurd hj (Nat.not_lt_zero j)
  clLen := List.length_replicate
  llLen := List.length_replicate
  dLen := List.length_replicate
  lens := List.length_replicate
  threshold := by simp only [applyReset_cfg]; decide

/-- A reset is one step of the host. -/
theorem step_reset {rest : List HostAction} (h : s.host.actions = .reset :: rest) :
    step s = .next (applyReset { s with host.actions := rest }) :=
  step_action h (by simp)

theorem resetting_iff : resetting s = true ↔ ∃ rest, s.host.actions = .reset :: rest := by
  unfold resetting
  rcases s.host.actions with _ | ⟨a, rest⟩ <;> simp

end

/-- Settles O56: outside a reset every component of `Sound` follows from the `Change` of a step; the reset values are sound. -/
theorem everyStepKeepsSound : Obligations.EveryStepKeepsSound := by
  intro s t hs h
  cases hr : resetting s with
  | false => exact (step_change h hr).sound hs
  | true =>
    obtain ⟨rest, ha⟩ := resetting_iff.mp hr
    rw [step_reset ha] at h
    exact Host.Outcome.next.inj h ▸ applyReset_sound _

/-! ## The rules read off a step's change -/

/-- Settles O48: no step but a reset clears the end flag, and a byte comes in only while it is clear. -/
theorem endOfInputIsSticky : Obligations.EndOfInputIsSticky := by
  refine ⟨fun s rest ha => ⟨_, step_action ha (by simp), rfl, rfl, rfl, rfl, rfl, rfl⟩, fun s t hend hr h => ?_,
    fun s rest ha => ⟨_, step_reset ha, rfl⟩⟩
  obtain ⟨n, hrd⟩ | ⟨b, hnot, -⟩ | hrd := (step_change h hr).reader
  · rw [hrd]; exact ⟨hend, rfl, rfl⟩
  · rw [hend] at hnot; cases hnot
  · rw [hrd]; exact ⟨rfl, rfl, rfl⟩

/-- Settles O51: a change of the configuration is one in IDLE. -/
theorem configurationIsStable : Obligations.ConfigurationIsStable := by
  intro s t h hst hr
  obtain hcfg | ⟨hidle, -, -⟩ | ⟨hidle, -, -, -⟩ := (step_change h hr).config
  · exact hcfg
  · exact absurd hidle hst
  · exact absurd hidle hst

/-- What Append does to the window, byte by byte. -/
theorem appended_of_win {s t : State} {b : Byte} (h : t.win = (append b s).win) : Appended b s t := by
  refine ⟨by rw [h]; rfl, by rw [h]; rfl, by rw [h]; exact read_write_same _ _ _, fun a ha => ?_⟩
  rw [h]; exact read_write_other _ _ ha

/-- Settles O52. -/
theorem windowIsWrittenByAppendOnly : Obligations.WindowIsWrittenByAppendOnly := by
  intro s t h hr
  obtain hwin | ⟨b, hwin⟩ | ⟨hst, hwin⟩ := (step_change h hr).window
  · exact .inl ⟨by rw [hwin], by rw [hwin], fun a => by rw [hwin]⟩
  · exact .inr (.inl ⟨b, appended_of_win hwin⟩)
  · exact .inr (.inr ⟨hst, by rw [hwin], by rw [hwin], fun a => by rw [hwin]⟩)

/-- Settles O54. -/
theorem cursorNeverMovesBack : Obligations.CursorNeverMovesBack := by
  intro s t h hr
  obtain ⟨n, hrd⟩ | ⟨b, -, hrd⟩ | hrd := (step_change h hr).reader <;> rw [hrd]
  · exact Nat.le_add_right _ _

end Sys2Proof.Machine

namespace Sys2Proof.Machine

/-! ## The statements about the encoding

Both directions between words and instructions are `decode_encode` and `encode_of_decode` above. -/

/-- Settles O1: an instruction is read back from its encoding, whether or not its operands are legal. -/
theorem decodeOfEncodeIsIdentity : Obligations.DecodeOfEncodeIsIdentity := fun i _ => decode_encode i

/-- Settles O2: so is a word from the instruction it decodes to. -/
theorem encodeOfDecodeIsIdentity : Obligations.EncodeOfDecodeIsIdentity := fun _ _ _ _ h => encode_of_decode h

/-- Settles O3: each word is evaluated. -/
theorem sampleWordsDecode : Obligations.SampleWordsDecode :=
  ⟨rfl, rfl, rfl, rfl, rfl, rfl, rfl, rfl, rfl, rfl, rfl⟩

/-! ### Packed bits -/

/-- A bit of a string is that bit of its FIELD value. -/
theorem testBit_fieldSum {p : Bits} {k : Nat} {b : Bool} (h : p[k]? = some b) : (packBits.fieldSum p).testBit k = b := by
  induction p generalizing k with
  | nil => simp at h
  | cons c p ih =>
    cases k with
    | zero =>
      obtain rfl := Option.some.inj h
      cases c <;> simp [packBits.fieldSum, Nat.testBit_zero]
    | succ k =>
      have hdiv : (c.toNat + 2 * packBits.fieldSum p) / 2 = packBits.fieldSum p := by
        have := Bool.toNat_le c
        omega
      rw [packBits.fieldSum, Nat.testBit_succ, hdiv]
      exact ih h

/-- Bit `k` of a string is bit `k mod 8` of packed byte `k div 8`: the first byte holds the first eight bits, the other bytes
are those of the rest. -/
theorem packBits_getLsbD {n k : Nat} {p : Bits} {b : Bool} (hn : p.length ≤ n) (h : p[k]? = some b) :
    ((packBits n p).getD (k / 8) 0).getLsbD (k % 8) = b := by
  induction n generalizing p k with
  | zero => simp [List.eq_nil_of_length_eq_zero (Nat.le_zero.mp hn)] at h
  | succ n ih =>
    obtain _ | ⟨c, q⟩ := p
    · simp at h
    · rw [packBits]
      by_cases hk : k < 8
      · have hbit : ((c :: q).take 8)[k]? = some b := by rw [List.getElem?_take_of_lt hk, h]
        rw [Nat.div_eq_of_lt hk, Nat.mod_eq_of_lt hk, List.getD_cons_zero, BitVec.getLsbD_ofNat, testBit_fieldSum hbit,
          decide_eq_true hk, Bool.true_and]
      · obtain ⟨m, rfl⟩ := Nat.exists_eq_add_of_le' (Nat.le_of_not_lt hk)
        rw [Nat.add_div_right m (by decide), Nat.add_mod_right, List.getD_cons_succ]
        refine ih ?_ ?_
        · rw [List.length_drop]; omega
        · rw [List.getElem?_drop, Nat.add_comm, h]

/-- Settles O4: InBit reads the packed byte's bit. -/
theorem packedBitsAreReadInOrder : Obligations.PackedBitsAreReadInOrder := by
  intro p s k b hbuf h
  rw [State.inBit, hbuf]
  exact packBits_getLsbD (le_refl _) h

/-! ### The fixed codewords -/

/-- The entry a symbol gets (42_huffman R605): its length's next code, moved on by the symbols of that length before it. -/
theorem find_assignCodes {lens : List CodeLen} {next : List Nat} {sym k : Nat} {L : CodeLen} (hn : next.length = 16)
    (h : lens[k]? = some L) (hL : L ≠ 0) : (assignCodes next sym lens).find? (fun e => e.sym == sym + k) =
      some ⟨L.toNat, next.getD L.toNat 0 + (lens.take k).countP (fun l => l == L), sym + k⟩ := by
  induction lens generalizing next sym k with
  | nil => simp at h
  | cons l ls ih =>
    rw [assignCodes]
    cases k with
    | zero =>
      obtain rfl := Option.some.inj h
      rw [if_neg hL]
      simp
    | succ k =>
      have hsym : sym + (k + 1) = sym + 1 + k := by omega
      rw [List.take_succ_cons, List.countP_cons, hsym]
      split
      · rename_i h0
        have hl : l ≠ L := fun he => hL (he ▸ h0)
        rw [ih hn h]
        simp [hl]
      · have hne : (sym == sym + 1 + k) = false := by simp; omega
        rw [List.find?_cons, hne, ih (by simpa using hn) h, getD_set_succ _ _ _ (hn ▸ l.isLt)]
        simp only [BitVec.toNat_inj, beq_iff_eq]
        congr 2
        omega

/-- A symbol's codeword is the canonical one (42_huffman R604, R605). -/
theorem codewordBits_eq_canonicalCode {lens : List CodeLen} {sym : Nat} {L : CodeLen}
    (hk : kraft lens ≤ 2 ^ Config.maxCodeLen) (h : lens[sym]? = some L) (hL : L ≠ 0) :
    codewordBits lens sym = some (codeBits L.toNat (canonicalCode lens (firstCode lens) sym L)) := by
  have hfind := find_assignCodes (sym := 0) (nextCodesFrom_length lens 0 0 16) h hL
  rw [← nextCodes, nextCodes_getD lens L.isLt, Nat.zero_add] at hfind
  rw [codewordBits, build, if_neg (Nat.not_lt.mpr hk)]
  simp only [hfind, Option.map_some, canonicalCode]

theorem fixedLl_getElem? (sym : Nat) : fixedLl[sym]? =
    if sym < 144 then some 8 else if sym < 256 then some 9 else if sym < 280 then some 7
    else if sym < 288 then some 8 else none := by
  simp only [fixedLl, List.getElem?_append, List.getElem?_replicate, List.length_append, List.length_replicate]
  grind

/-- The symbols before `sym` whose length meets a test, range by range of FIXED_LL (43_block_fsm R730). -/
theorem countP_take_fixedLl (sym : Nat) (q : CodeLen → Bool) : (fixedLl.take sym).countP q =
    (if q 8 then min sym 144 else 0) + (if q 9 then min (sym - 144) 112 else 0) +
      (if q 7 then min (sym - 256) 24 else 0) + (if q 8 then min (sym - 280) 8 else 0) := by
  simp only [fixedLl, List.take_append, List.take_replicate, List.countP_append, List.countP_replicate,
    List.length_append, List.length_replicate]

theorem countP_take_fixedLl_7 (sym : Nat) : (fixedLl.take sym).countP (fun l => l == 7) = min (sym - 256) 24 := by
  simp [countP_take_fixedLl]

theorem countP_take_fixedLl_8 (sym : Nat) :
    (fixedLl.take sym).countP (fun l => l == 8) = min sym 144 + min (sym - 280) 8 := by
  simp [countP_take_fixedLl]

theorem countP_take_fixedLl_9 (sym : Nat) : (fixedLl.take sym).countP (fun l => l == 9) = min (sym - 144) 112 := by
  simp [countP_take_fixedLl]

theorem blCount_fixedLl (L : Nat) : blCount fixedLl L =
    if L = 7 then 24 else if L = 8 then 152 else if L = 9 then 112 else 0 := by
  have hall : fixedLl.take 288 = fixedLl := List.take_of_length_le (by
    simp only [fixedLl, List.length_append, List.length_replicate, le_refl])
  rw [blCount, ← hall, countP_take_fixedLl]
  simp only [beq_iff_eq]
  split_ifs <;> simp_all

theorem blCount_fixedD (L : Nat) : blCount fixedD L = if L = 5 then 32 else 0 := by
  simp only [blCount, fixedD, List.countP_replicate, beq_iff_eq]
  split_ifs <;> simp_all

/-- Both fixed codes are complete (42_huffman R607). -/
theorem kraft_fixedLl : kraft fixedLl = 2 ^ Config.maxCodeLen := by
  simp only [kraft, blCount_fixedLl]
  decide

theorem kraft_fixedD : kraft fixedD = 2 ^ Config.maxCodeLen := by
  simp only [kraft, blCount_fixedD]
  decide

theorem firstCode_fixedLl :
    firstCode fixedLl 7 = 0 ∧ firstCode fixedLl 8 = 0x30 ∧ firstCode fixedLl 9 = 0x190 := by
  simp only [firstCode, blCount_fixedLl]
  decide

theorem firstCode_fixedD : firstCode fixedD 5 = 0 := by
  simp only [firstCode, blCount_fixedD]
  decide

/-- The codeword of a symbol of FIXED_LL, from the lengths before it. -/
theorem codewordBits_fixedLl {sym n c : Nat} {L : CodeLen} (h : fixedLl[sym]? = some L) (hL : L ≠ 0) (hn : L.toNat = n)
    (hc : firstCode fixedLl n + (fixedLl.take sym).countP (fun l => l == L) = c) :
    codewordBits fixedLl sym = some (codeBits n c) := by
  rw [codewordBits_eq_canonicalCode kraft_fixedLl.le h hL, canonicalCode, hn, hc]

theorem codewordBits_fixedD {d : Nat} (hd : d < 32) : codewordBits fixedD d = some (codeBits 5 d) := by
  have hlen : fixedD[d]? = some 5 := by rw [fixedD, List.getElem?_replicate, if_pos hd]
  have hcount : (fixedD.take d).countP (fun l => l == 5) = d := by
    rw [fixedD, List.take_replicate, List.countP_replicate, if_pos (by decide), Nat.min_eq_left hd.le]
  have hcode := codewordBits_eq_canonicalCode kraft_fixedD.le hlen (by decide)
  rw [canonicalCode, hcount] at hcode
  rw [hcode]
  show some (codeBits 5 (firstCode fixedD 5 + d)) = _
  rw [firstCode_fixedD, Nat.zero_add]

/-- Settles O5: in each range the first code of its length, and the symbols of that length before it, give the codeword. -/
theorem fixedCodewords : Obligations.FixedCodewords := by
  obtain ⟨h7, h8, h9⟩ := firstCode_fixedLl
  refine ⟨fun s hs => ?_, fun s h1 h2 => ?_, fun s h1 h2 => ?_, fun s h1 h2 => ?_,
    fun d hd => codewordBits_fixedD (Nat.lt_succ_of_le hd)⟩
  · refine codewordBits_fixedLl (L := 8) (by rw [fixedLl_getElem?, if_pos (by omega)]) (by decide) rfl ?_
    rw [h8, countP_take_fixedLl_8]
    omega
  · refine codewordBits_fixedLl (L := 9) ?_ (by decide) rfl ?_
    · rw [fixedLl_getElem?, if_neg (by omega), if_pos (by omega)]
    · rw [h9, countP_take_fixedLl_9]
      omega
  · refine codewordBits_fixedLl (L := 7) ?_ (by decide) rfl ?_
    · rw [fixedLl_getElem?, if_neg (by omega), if_neg (by omega), if_pos (by omega)]
    · rw [h7, countP_take_fixedLl_7]
      omega
  · refine codewordBits_fixedLl (L := 8) ?_ (by decide) rfl ?_
    · rw [fixedLl_getElem?, if_neg (by omega), if_neg (by omega), if_neg (by omega), if_pos (by omega)]
    · rw [h8, countP_take_fixedLl_8]
      omega

/-! ### The header with BTYPE 11 -/

/-- Taking an exception is the fault entry, and nothing else (60_exceptions R1110). -/
theorem faulted_takeFault (k : ErrKind) (o : Nat) (s : State) : Faulted k o s (takeFault k o s) :=
  ⟨rfl, rfl, rfl, ⟨rfl, rfl, fun _ => rfl⟩, rfl, rfl, rfl⟩

theorem exec_blockInvalid (f : BitVec 1) (s : State) :
    exec (.blockInvalid f) s = .next (takeFault .invalidBlockType (s.rd.offset + 3) s) := rfl

/-- BTYPE is the word's upper part (30_encoding R302). -/
theorem decodeBlockHdr_btype3 {w : Nat} (h : w / 2 = 3) : decodeBlockHdr w = .blockInvalid (BitVec.ofNat 1 w) := by
  simp only [decodeBlockHdr, h, Nat.reduceEqDiff, if_false]

/-- Settles O11: the word's BTYPE selects BLOCK_INVALID, whose step is the fault entry past the header. -/
theorem invalidBlockTypeRaises : Obligations.InvalidBlockTypeRaises := by
  refine ⟨fun w port hw h => ⟨BitVec.ofNat 1 w, ?_⟩, fun f s => ⟨_, exec_blockInvalid f s, faulted_takeFault _ _ s⟩⟩
  rw [decode_blockHdr3 port hw, decodeBlockHdr_btype3 h]

/-! ### The reserved operation codes -/

theorem decodeCmd_reserved {w : Nat} (port : Operand) (h : w = 0xE ∨ w = 0xF) :
    decodeCmd w port = .ok (.cmdReserved (BitVec.ofNat 1 (w - 14))) := by
  rcases h with rfl | rfl <;> rfl

theorem exec_cmdReserved (low : BitVec 1) (s : State) : exec (.cmdReserved low) s = .refused .reservedCommand := rfl

section
variable {s : State} {i : Instr}

/-- An instruction a word stands for is encoded in the word's format. -/
theorem fmt_of_instrOf {f : Format} {v : Nat} (h : instrOf f v s = .ok i) : (encode i).fmt = f := by
  have hends := instrOf_ends s f v
  rw [h] at hends
  cases hends with
  | ok h => exact h.1

theorem fmt_of_fetch {f : Format} (h : fetch f s = .ok i) : (encode i).fmt = f := by
  unfold fetch at h
  cases hw : readWord f s with
  | error e => rw [hw] at h; cases h
  | ok v => rw [hw] at h; exact fmt_of_instrOf h

theorem fmt_of_fetchLength (h : fetchLength s = .ok i) : (encode i).fmt = .llSym9 := by
  unfold fetchLength at h
  split at h
  · exact fmt_of_instrOf h
  · cases h

theorem fmt_of_fetchDistance (h : fetchDistance s = .ok i) : (encode i).fmt = .dSym5 := by
  unfold fetchDistance at h
  split at h
  · exact fmt_of_instrOf h
  · cases h

/-- With no command pending no command is fetched. -/
theorem fmt_ne_cmd4_of_nextElement (hc : s.host.commands = []) (h : nextElement s = some (.ok i)) :
    (encode i).fmt ≠ .cmd4 := by
  obtain ⟨f, hf⟩ | ⟨-, hf⟩ | ⟨-, hf⟩ := nextElement_some h
  · rw [fmt_of_fetch hf.symm]
    rintro rfl
    simp only [fetch, readWord, hc] at hf
    cases hf
  · simp [fmt_of_fetchLength hf.symm]
  · simp [fmt_of_fetchDistance hf.symm]

end

/-- Settles O34: CMD_RESERVED has a command's encoding, and the FSM fetches no command. -/
theorem reservedCodesAreRefused : Obligations.ReservedCodesAreRefused := by
  refine ⟨fun w port h => ⟨BitVec.ofNat 1 (w - 14), ?_⟩, exec_cmdReserved,
    fun s low hc h => fmt_ne_cmd4_of_nextElement hc h rfl⟩
  rw [decode_cmd4 port (by omega), decodeCmd_reserved port h]

end Sys2Proof.Machine

namespace Sys2Proof.Machine

/-! ## The statements about the bit reader

A command of the bit reader is `Ensure` and what follows it. Each has one equation for the case that its bits are there;
`shortage` says for all of them what ends the step where they are not. -/

/-! ### How a command ends -/

section
variable {s : State} {n : Nat}

/-- A width in the range of 40_bitreader R400 is accepted. -/
theorem checked_width (hn : n ≤ 16) (r : Run State) : checked (legalWidth n) r = r := if_pos (decide_eq_true hn)

theorem checked_pattern {p : Bits} (h1 : 1 ≤ p.length) (h16 : p.length ≤ 16) (r : Run State) :
    checked (legalPattern p) r = r := if_pos (decide_eq_true ⟨h1, h16⟩)

/-- An operand outside its range is refused, whatever the command would do. -/
theorem settleCommand_illegal {legal : Prop} [Decidable legal] (h : ¬legal) (r : Run State) :
    settleCommand s (checked (decide legal) r) = .refused .illegalOperand := by
  rw [checked, decide_eq_false h]
  rfl

/-- A command that answers `n` bits on has moved the cursor by `n` and changed nothing else but its own queue and port. -/
theorem answers_of_eq {o : Host.Outcome State Fault Refusal} {r : Response} (h : o = .next (answer r (s.advance n))) :
    ∃ t, o = .next t ∧ Moved n s t ∧ SameWindow s t ∧ Answered r s t :=
  ⟨_, h, rfl, ⟨rfl, rfl, fun _ => rfl⟩, rfl, rfl, rfl, rfl, rfl⟩

/-- The same for a command that leaves the cursor. -/
theorem answers_here_of_eq {o : Host.Outcome State Fault Refusal} {r : Response} (h : o = .next (answer r s)) :
    ∃ t, o = .next t ∧ Moved 0 s t ∧ SameWindow s t ∧ Answered r s t :=
  answers_of_eq (n := 0) h

theorem held_holdInput (s : State) : Held s (holdInput s) := holdInput_cases s

end

/-! ### With the bits there -/

section
variable {s : State} {n : Nat}

theorem exec_cmdTakeField (hn : n ≤ 16) (h : s.rd.offset + n ≤ s.rd.readbits) : exec (.cmdTakeField n) s =
    .next (answer (.value (fieldValue s s.rd.offset n)) (s.advance n)) := by
  rw [exec, execCmdTakeField, checked_width hn, takeField_eq, if_pos h]
  rfl

theorem exec_cmdTakeCode (hn : n ≤ 16) (h : s.rd.offset + n ≤ s.rd.readbits) : exec (.cmdTakeCode n) s =
    .next (answer (.value (codeValue s s.rd.offset n)) (s.advance n)) := by
  rw [exec, execCmdTakeCode, checked_width hn, takeCode_eq, if_pos h]
  rfl

theorem exec_cmdPeekField (hn : n ≤ 16) (h : s.rd.offset + n ≤ s.rd.readbits) : exec (.cmdPeekField n) s =
    .next (answer (.value (fieldValue s s.rd.offset n)) s) := by
  rw [exec, execCmdPeekField, checked_width hn, peekField_eq, if_pos h]
  rfl

theorem exec_cmdPeekCode (hn : n ≤ 16) (h : s.rd.offset + n ≤ s.rd.readbits) : exec (.cmdPeekCode n) s =
    .next (answer (.value (codeValue s s.rd.offset n)) s) := by
  rw [exec, execCmdPeekCode, checked_width hn, peekCode_eq, if_pos h]
  rfl

theorem exec_cmdDiscard (hn : n ≤ 16) (h : s.rd.offset + n ≤ s.rd.readbits) : exec (.cmdDiscard n) s =
    .next (answer .completed (s.advance n)) := by
  rw [exec, execCmdDiscard, checked_width hn, discard_eq, if_pos h]
  rfl

theorem exec_cmdAlign (h : s.rd.offset ≤ s.rd.readbits) (h8 : s.rd.readbits % 8 = 0) : exec .cmdAlign s =
    .next (answer .completed (s.advance (alignPad s))) := by
  rw [exec, execCmdAlign, align_ok h8 h]
  rfl

theorem fieldValue_eq_FieldSum (s : State) (k n : Nat) : fieldValue s k n = FieldSum s k n := fieldValue_eq_sum s k n

theorem codeValue_eq_CodeSum (s : State) (k n : Nat) : codeValue s k n = CodeSum s k n := codeValue_eq_sum s k n

end

/-- Settles O24: each of the four is its equation, and the recursive values are the sums of 20_memory R211 and R212. -/
theorem takeAndPeekAnswerValue : Obligations.TakeAndPeekAnswerValue := by
  intro s i n v adv hrow hn h
  rw [← fieldValue_eq_FieldSum, ← codeValue_eq_CodeSum] at hrow
  simp only [List.mem_cons, Prod.mk.injEq, List.not_mem_nil, or_false] at hrow
  obtain ⟨rfl, rfl, rfl⟩ | ⟨rfl, rfl, rfl⟩ | ⟨rfl, rfl, rfl⟩ | ⟨rfl, rfl, rfl⟩ := hrow
  · exact answers_of_eq (exec_cmdTakeField hn h)
  · exact answers_of_eq (exec_cmdTakeCode hn h)
  · exact answers_here_of_eq (exec_cmdPeekField hn h)
  · exact answers_here_of_eq (exec_cmdPeekCode hn h)

/-- Settles O25: the padding of ALIGN ends at the next byte boundary, and `readbits` is one, so its bits are there. -/
theorem discardAndAlignMoveCursor : Obligations.DiscardAndAlignMoveCursor := by
  refine fun s => ⟨fun n hn h => answers_of_eq (exec_cmdDiscard hn h), fun h h8 => ?_⟩
  obtain ⟨hboundary, hlt⟩ := alignPad_spec s
  obtain ⟨t, ht, hmoved, hwin, hans⟩ := answers_of_eq (exec_cmdAlign h h8)
  exact ⟨t, alignPad s, ht, hmoved, hlt, by rw [hmoved]; exact hboundary, hwin, hans⟩

/-! ### The probes -/

section
variable {s : State}

/-- Everything STARTS_WITH can do. -/
theorem exec_cmdStartsWith {p : Bits} (h1 : 1 ≤ p.length) (h16 : p.length ≤ 16) : exec (.cmdStartsWith p) s =
    if s.rd.offset + p.length ≤ s.rd.readbits then .next (answer (.flag (bitsAt s s.rd.offset p.length == p)) s)
    else if s.rd.srcEnd then .next (answer (.flag false) s) else .next (holdInput s) := by
  rw [exec, execCmdStartsWith, checked_pattern h1 h16, startsWith]
  split
  · rfl
  · split <;> rfl

/-- Everything HAS_BITS can do. -/
theorem exec_cmdHasBits {n : Nat} (hn : n ≤ 16) : exec (.cmdHasBits n) s =
    if s.rd.offset + n ≤ s.rd.readbits then .next (answer (.flag true) s)
    else if s.rd.srcEnd then .next (answer (.flag false) s) else .next (holdInput s) := by
  rw [exec, execCmdHasBits, checked_width hn, hasBits]
  split
  · rfl
  · split <;> rfl

/-- What the three endings of a probe of `m` bits leave. -/
theorem probe_endings {o : Host.Outcome State Fault Refusal} {m : Nat} {b : Bool}
    (h : o = if s.rd.offset + m ≤ s.rd.readbits then .next (answer (.flag b) s)
      else if s.rd.srcEnd then .next (answer (.flag false) s) else .next (holdInput s)) :
    (s.rd.offset + m ≤ s.rd.readbits → ∃ t, o = .next t ∧ Moved 0 s t ∧ SameWindow s t ∧ Answered (.flag b) s t) ∧
    (s.rd.readbits < s.rd.offset + m → s.rd.srcEnd = true →
      ∃ t, o = .next t ∧ Moved 0 s t ∧ SameWindow s t ∧ Answered (.flag false) s t) ∧
    (s.rd.readbits < s.rd.offset + m → s.rd.srcEnd = false → ∃ t, o = .next t ∧ Held s t) := by
  refine ⟨fun hm => ?_, fun hm hend => ?_, fun hm hend => ?_⟩
  · rw [if_pos hm] at h
    exact answers_here_of_eq h
  · rw [if_neg (by omega), if_pos hend] at h
    exact answers_here_of_eq h
  · rw [if_neg (by omega), if_neg (by simp [hend])] at h
    exact ⟨_, h, held_holdInput s⟩

/-- A pattern stands at the cursor where each of its bits does. -/
theorem bitsAt_eq_iff {p : Bits} {k : Nat} :
    bitsAt s k p.length = p ↔ ∀ i, i < p.length → p[i]? = some (s.inBit (k + i)) := by
  refine ⟨fun h i hi => ?_, fun h => List.ext_getElem? fun i => ?_⟩
  · rw [← bitsAt_getElem? k p.length i hi, h]
  · by_cases hi : i < p.length
    · rw [bitsAt_getElem? k p.length i hi, h i hi]
    · rw [List.getElem?_eq_none (by rw [bitsAt_length]; omega), List.getElem?_eq_none (by omega)]

end

/-- Settles O26: none of the three endings of a probe raises or moves the cursor. -/
theorem probesAnswerWithoutFailing : Obligations.ProbesAnswerWithoutFailing := by
  refine fun s => ⟨fun p h1 h16 => ?_, fun n hn => probe_endings (exec_cmdHasBits hn)⟩
  obtain ⟨hthere, hended, hheld⟩ := probe_endings (exec_cmdStartsWith (s := s) h1 h16)
  refine ⟨fun h => ?_, hended, hheld⟩
  obtain ⟨t, ht, hmoved, hwin, hans⟩ := hthere h
  exact ⟨t, _, ht, hmoved, hwin, hans, beq_iff_eq.trans bitsAt_eq_iff⟩

/-! ### With bits missing -/

/-- What ends a step that finds too few bits at the cursor (40_bitreader R401). -/
def shortage (s : State) : Stop := if s.rd.srcEnd then .raise .endOfStream s.rd.offset else .hold

/-- A step from `s` holds, or raises EndOfStream at `o`, the fault entry starting from `u`. -/
def HoldsOrRaises (o : Nat) (s u : State) (r : Host.Outcome State Fault Refusal) : Prop :=
  (s.rd.srcEnd = true → ∃ t, r = .next t ∧ Faulted .endOfStream o u t) ∧
  (s.rd.srcEnd = false → ∃ t, r = .next t ∧ Held s t)

section
variable {s : State} {n : Nat}

theorem shortage_ended (h : s.rd.srcEnd = true) : shortage s = .raise .endOfStream s.rd.offset := if_pos h

theorem shortage_open (h : s.rd.srcEnd = false) : shortage s = .hold := if_neg (by simp [h])

theorem ensure_short (h : s.rd.readbits < s.rd.offset + n) : ensure n s = .error (shortage s) := by
  rw [ensure_eq, if_neg (by omega), shortage]
  split <;> rfl

theorem takeExtra_short {row : Nat × Nat} (h : s.rd.readbits < s.rd.offset + row.1) :
    takeExtra row s = .error (shortage s) := by
  rw [takeExtra, takeField, ensure_short h]
  rfl

/-- A shortage `m` bits into a step of the FSM. -/
theorem settle_shortage (s : State) (m : Nat) :
    HoldsOrRaises (s.rd.offset + m) s s (settle s (.error (shortage (s.advance m)))) := by
  refine ⟨fun hend => ?_, fun hend => ?_⟩
  · rw [shortage_ended (s := s.advance m) hend]
    exact ⟨_, rfl, faulted_takeFault _ _ s⟩
  · rw [shortage_open (s := s.advance m) hend]
    exact ⟨_, rfl, held_holdInput s⟩

/-- A shortage at a command: the command has left its queue where it raises. -/
theorem settleCommand_shortage (s : State) :
    HoldsOrRaises s.rd.offset s (popCommand s) (settleCommand s (.error (shortage s))) := by
  refine ⟨fun hend => ?_, fun hend => ?_⟩
  · rw [shortage_ended hend]
    exact ⟨_, rfl, faulted_takeFault _ _ (popCommand s)⟩
  · rw [shortage_open hend]
    exact ⟨_, rfl, held_holdInput s⟩

/-- A take, a peek or a discard begins with `Ensure(n)`: where that stops, the command does. -/
theorem exec_of_ensure_error {i : Instr} {e : Stop} (hn : n ≤ 16)
    (hi : i ∈ [Instr.cmdTakeField n, .cmdTakeCode n, .cmdPeekField n, .cmdPeekCode n, .cmdDiscard n])
    (h : ensure n s = .error e) : exec i s = settleCommand s (.error e) := by
  simp only [List.mem_cons, List.not_mem_nil, or_false] at hi
  obtain rfl | rfl | rfl | rfl | rfl := hi
  · rw [exec, execCmdTakeField, checked_width hn, takeField, h]; rfl
  · rw [exec, execCmdTakeCode, checked_width hn, takeCode, h]; rfl
  · rw [exec, execCmdPeekField, checked_width hn, peekField, h]; rfl
  · rw [exec, execCmdPeekCode, checked_width hn, peekCode, h]; rfl
  · rw [exec, execCmdDiscard, checked_width hn, discard, h]; rfl

end

/-! ### The symbols with extra bits -/

section
variable {s : State} {i : Instr} {n e base : Nat}

theorem lengthRows_getElem {k : Nat} (hk : k < 29) :
    lengthRows[k]'hk = (lengthInstrs[k]'hk, 257 + k, lengthRow (257 + k)) := by
  interval_cases k <;> rfl

theorem distanceRows_getElem {k : Nat} (hk : k < 30) : distanceRows[k]'hk = (distInstrs[k]'hk, k, distRow k) := by
  interval_cases k <;> rfl

/-- A printed row of the length table is the model's row of its symbol. -/
theorem exec_of_mem_lengthRows (h : (i, n, e, base) ∈ lengthRows) :
    exec i s = lengthMeaning n s ∧ lengthRow n = (e, base) := by
  obtain ⟨k, hk, hrow⟩ := List.getElem_of_mem h
  rw [lengthRows_getElem hk] at hrow
  simp only [Prod.mk.injEq] at hrow
  obtain ⟨rfl, rfl, hrow⟩ := hrow
  exact ⟨exec_lengthInstrs hk s, hrow⟩

/-- A printed row of the distance table is the model's row of its symbol. -/
theorem exec_of_mem_distanceRows (h : (i, n, e, base) ∈ distanceRows) :
    exec i s = distMeaning n s ∧ distRow n = (e, base) := by
  obtain ⟨k, hk, hrow⟩ := List.getElem_of_mem h
  rw [distanceRows_getElem hk] at hrow
  simp only [Prod.mk.injEq] at hrow
  obtain ⟨rfl, rfl, hrow⟩ := hrow
  exact ⟨exec_distInstrs hk s, hrow⟩

/-- A repeat symbol reads its extra bits past its codeword, then writes its run (44_code_lengths R821-R823). -/
theorem exec_of_mem_repeatRows {v : CodeLen} (h : (i, n, e, base, v) ∈ repeatRows s)
    (hprev : i = .rep16 → s.fsm.lensN ≠ 0) :
    exec i s = settle s (takeExtra (e, base) (pastCl n s) >>= fun p => repeatLength p.1 v p.2) := by
  simp only [repeatRows, List.mem_cons, Prod.mk.injEq, List.not_mem_nil, or_false] at h
  obtain ⟨rfl, rfl, rfl, rfl, rfl⟩ | ⟨rfl, rfl, rfl, rfl, rfl⟩ | ⟨rfl, rfl, rfl, rfl, rfl⟩ := h
  · have hne : ¬(pastCl 16 s).fsm.lensN = 0 := hprev rfl
    rw [exec, execRep16]
    simp only [if_neg hne, takeExtra_eq]
    split
    · rfl
    · split <;> rfl
  · rfl
  · rfl

end

/-- Settles O27: the command's `Ensure`, or the read of the extra bits, ends the step with a shortage. -/
theorem missingBitsHoldOrRaise : Obligations.MissingBitsHoldOrRaise := by
  refine ⟨fun s i n hi hn h => ?_, fun s i n e base o hrow h => ?_⟩
  · rw [exec_of_ensure_error hn hi (ensure_short h)]
    exact settleCommand_shortage s
  · obtain ⟨hrow, hst, rfl⟩ | ⟨hrow, hst, rfl⟩ | ⟨⟨v, hrow⟩, hprev, rfl⟩ := hrow
    · obtain ⟨hexec, htab⟩ := exec_of_mem_lengthRows (s := s) hrow
      rw [hexec, lengthMeaning, if_pos hst, readLength, htab, takeExtra_short h]
      exact settle_shortage s 0
    · obtain ⟨hexec, htab⟩ := exec_of_mem_distanceRows (s := s) hrow
      rw [hexec, distMeaning, if_pos hst, readDistance, htab, takeExtra_short h]
      exact settle_shortage s 0
    · rw [exec_of_mem_repeatRows hrow hprev, takeExtra_short h]
      exact settle_shortage s _

/-! ### Operands and indices out of range -/

/-- Settles O33: the checks of the commands, of AppendBackref, and of the two array indices. -/
theorem outOfRangeOperandsStop : Obligations.OutOfRangeOperandsStop := by
  refine fun s => ⟨fun n i hn hi => ?_, fun p hp => settleCommand_illegal (by omega) _, fun d hd => ?_,
    fun lens hlens => settleCommand_illegal (Nat.not_le.mpr hlens) _, fun len hidx => ?_, fun c hidx => ?_⟩
  · have hwide : ¬n ≤ 16 := by omega
    simp only [List.mem_cons, List.not_mem_nil, or_false] at hi
    obtain rfl | rfl | rfl | rfl | rfl | rfl := hi <;> exact settleCommand_illegal hwide _
  · rw [exec, execCmdAppendBackref, appendBackref_eq, if_pos hd]
    rfl
  · rw [exec, execCll, List.getElem?_eq_none hidx]
    rfl
  · rw [exec, execClLit, if_neg (Nat.not_lt.mpr hidx)]
    rfl

end Sys2Proof.Machine

namespace Sys2Proof.Machine

/-! ## Input is taken on request

`in_req` is defined by a second run of the step, in which the host has nothing to give but the end of the input. So the step
and that second run are compared: an element is fetched alike in both (nothing the core reads is the host's source), and then
both hold, or neither does. `Finishes` is for a run that never holds, `HoldAlike` for two runs of one step that hold together;
`Keeps` and `StepsAlike` are the same for the outcomes of a step. -/

/-- The input buffer and the end flag are as before. -/
def SameInput (s t : State) : Prop :=
  t.rd.inbuf = s.rd.inbuf ∧ t.rd.readbits = s.rd.readbits ∧ t.rd.srcEnd = s.rd.srcEnd

/-- A run that does not hold, and answers something of which `P` holds where it answers. -/
inductive Finishes {α : Type} (P : α → Prop) : Run α → Prop where
  | ok {a : α} (h : P a) : Finishes P (.ok a)
  | stop {e : Stop} (h : e ≠ .hold) : Finishes P (.error e)

/-- Two runs of a step, with and without the host's input, where the end flag is `ended`: both hold, before the end of the
input, or neither does. -/
inductive HoldAlike {α : Type} (ended : Bool) (P : α → Prop) : Run α → Run α → Prop where
  | hold (h : ended = false) : HoldAlike ended P (.error .hold) (.error .hold)
  | finish {r r' : Run α} (h : Finishes P r) (h' : Finishes P r') : HoldAlike ended P r r'

/-- Every next state of an outcome has the input of `s`. -/
def Keeps (s : State) (o : Host.Outcome State Fault Refusal) : Prop := ∀ t, o = .next t → SameInput s t

/-- The outcomes of the two runs of a step: both are the hold, or neither touches the input. -/
inductive StepsAlike (s : State) : (o o' : Host.Outcome State Fault Refusal) → Prop where
  | hold (h : s.rd.srcEnd = false) : StepsAlike s (.next (holdInput s)) (.next (holdInput (withoutInput s)))
  | keep {o o' : Host.Outcome State Fault Refusal} (h : Keeps s o) (h' : Keeps s o') : StepsAlike s o o'

/-! ### Rules -/

section
variable {α β : Type} {s t : State} {ended : Bool}

theorem Finishes.bind {P : α → Prop} {Q : β → Prop} {r : Run α} {k : α → Run β} (h : Finishes P r)
    (hk : ∀ a, P a → Finishes Q (k a)) : Finishes Q (r >>= k) := by
  cases h with
  | ok h => exact hk _ h
  | stop h => exact .stop h

theorem Finishes.ite {P : α → Prop} {c : Prop} [Decidable c] {r r' : Run α} (h : Finishes P r) (h' : Finishes P r') :
    Finishes P (if c then r else r') := by
  split
  · exact h
  · exact h'

theorem Finishes.raise {P : α → Prop} {k : ErrKind} {o : Nat} : Finishes P (.error (.raise k o)) := .stop nofun

theorem Finishes.fault {P : α → Prop} {f : Fault} : Finishes P (.error (.fault f)) := .stop nofun

theorem Finishes.refuse {P : α → Prop} {r : Refusal} : Finishes P (.error (.refuse r)) := .stop nofun

theorem Finishes.checked {P : State → Prop} {b : Bool} {r : Run State} (h : Finishes P r) : Finishes P (checked b r) :=
  .ite h .refuse

theorem HoldAlike.bind {P : α → Prop} {Q : β → Prop} {r r' : Run α} {k k' : α → Run β} (h : HoldAlike ended P r r')
    (hk : ∀ a, P a → Finishes Q (k a)) (hk' : ∀ a, P a → Finishes Q (k' a)) :
    HoldAlike ended Q (r >>= k) (r' >>= k') := by
  cases h with
  | hold h => exact .hold h
  | finish h h' => exact .finish (h.bind hk) (h'.bind hk')

theorem HoldAlike.ite {P : α → Prop} {c : Prop} [Decidable c] {q q' r r' : Run α} (h : HoldAlike ended P q q')
    (h' : HoldAlike ended P r r') : HoldAlike ended P (if c then q else r) (if c then q' else r') := by
  split
  · exact h
  · exact h'

theorem HoldAlike.checked {P : State → Prop} {b : Bool} {r r' : Run State} (h : HoldAlike ended P r r') :
    HoldAlike ended P (checked b r) (checked b r') :=
  .ite h (.finish .refuse .refuse)

theorem HoldAlike.error {P : α → Prop} {e : Stop} (h : e = .hold → ended = false) :
    HoldAlike ended P (.error e) (.error e) := by
  by_cases he : e = .hold
  · rw [he]; exact .hold (h he)
  · exact .finish (.stop he) (.stop he)

/-- A read of the input: its bits are there in both runs, or missing in both. -/
theorem HoldAlike.read {P : α → Prop} {c : Prop} [Decidable c] {a a' : α} {e e' : Run α} (h : P a) (h' : P a')
    (he : Finishes P e) (he' : Finishes P e') :
    HoldAlike ended P (if c then .ok a else if ended then e else .error .hold)
      (if c then .ok a' else if ended then e' else .error .hold) := by
  refine .ite (.finish (.ok h) (.ok h')) ?_
  cases ended with
  | true => exact .finish he he'
  | false => exact .hold rfl

/-- Two runs that differ by a map of what they answer. -/
theorem HoldAlike.of_map {w : Nat} {P Q : α → Prop} {r : Run α} (h : Ends w s P r) {f : α → α} (hq : ∀ a, P a → Q a)
    (hf : ∀ a, P a → Q (f a)) : HoldAlike s.rd.srcEnd Q r (f <$> r) := by
  cases h with
  | ok h => exact .finish (.ok (hq _ h)) (.ok (hf _ h))
  | stop h => exact .error fun he => by subst he; exact h

theorem settle_keeps {r : Run State} (h : Finishes (SameInput s) r) : Keeps s (settle s r) := by
  intro t ht
  rcases settle_next ht with rfl | ⟨rfl, -⟩ | ⟨k, o, -, rfl⟩
  · cases h with | ok h => exact h
  · cases h with | stop h => exact absurd rfl h
  · exact ⟨rfl, rfl, rfl⟩

theorem settleCommand_keeps {r : Run State} (h : Finishes (SameInput s) r) : Keeps s (settleCommand s r) := by
  intro t ht
  rcases settleCommand_next ht with rfl | ⟨rfl, -⟩ | ⟨k, o, -, rfl⟩
  · cases h with | ok h => exact h
  · cases h with | stop h => exact absurd rfl h
  · exact ⟨rfl, rfl, rfl⟩

theorem settle_alike {r r' : Run State} (h : HoldAlike s.rd.srcEnd (SameInput s) r r') :
    StepsAlike s (settle s r) (settle (withoutInput s) r') := by
  cases h with
  | hold h => exact .hold h
  | finish h h' => exact .keep (settle_keeps h) (settle_keeps (s := withoutInput s) h')

theorem settleCommand_alike {r r' : Run State} (h : HoldAlike s.rd.srcEnd (SameInput s) r r') :
    StepsAlike s (settleCommand s r) (settleCommand (withoutInput s) r') := by
  cases h with
  | hold h => exact .hold h
  | finish h h' => exact .keep (settleCommand_keeps h) (settleCommand_keeps (s := withoutInput s) h')

/-- A step that never holds. -/
theorem StepsAlike.of_keeps {f : State → Host.Outcome State Fault Refusal} (h : ∀ u, Keeps u (f u)) :
    StepsAlike s (f s) (f (withoutInput s)) :=
  .keep (h s) (h (withoutInput s))

end

/-! ### The fetch does not see the host's input -/

section
variable (s : State)

theorem fieldValue_withoutInput (k n : Nat) : fieldValue (withoutInput s) k n = fieldValue s k n := by
  induction n generalizing k with
  | zero => rfl
  | succ n ih => rw [fieldValue, ih]; rfl

theorem takeField_withoutInput (n : Nat) :
    takeField n (withoutInput s) = (fun p => (p.1, withoutInput p.2)) <$> takeField n s := by
  rw [takeField_eq, takeField_eq, fieldValue_withoutInput]
  change (if s.rd.offset + n ≤ s.rd.readbits then _ else if s.rd.srcEnd then _ else _) = _
  split
  · rfl
  · split <;> rfl

theorem align_withoutInput : align (withoutInput s) = withoutInput <$> align s := by
  rw [align, align, discard_eq, discard_eq]
  change (if s.rd.offset + alignPad s ≤ s.rd.readbits then _ else if s.rd.srcEnd then _ else _) = _
  split
  · rfl
  · split <;> rfl

theorem decodeWalk_withoutInput (t : Table) (fuel k v : Nat) : decodeWalk t (withoutInput s) fuel k v =
    (fun p => (p.1, withoutInput p.2)) <$> decodeWalk t s fuel k v := by
  induction fuel generalizing k v with
  | zero => rfl
  | succ fuel ih =>
    have hensure : ensure (k + 1) (withoutInput s) = ensure (k + 1) s := rfl
    have hbit : (withoutInput s).inBit ((withoutInput s).rd.offset + k) = s.inBit (s.rd.offset + k) := rfl
    simp only [decodeWalk, hensure, hbit, map_bind]
    refine bind_congr fun _ => ?_
    cases lookup t (k + 1) (2 * v + (s.inBit (s.rd.offset + k)).toNat) with
    | some sym => rfl
    | none =>
      simp only [ih]
      split <;> rfl

theorem decodeWith_withoutInput (lens : List CodeLen) : decodeWith lens (withoutInput s) =
    (fun p => (p.1, withoutInput p.2)) <$> decodeWith lens s := by
  have hbuild : buildTable lens (withoutInput s) = buildTable lens s := by
    unfold buildTable
    cases build lens <;> rfl
  simp only [decodeWith, hbuild, map_bind, decodeSymbol, decodeWalk_withoutInput]
  refine bind_congr fun t => ?_
  split <;> rfl

theorem readWord_withoutInput (f : Format) : readWord f (withoutInput s) = readWord f s := by
  cases f with
  | cmd4 => rfl
  | storedHdr32 =>
    simp only [readWord, align_withoutInput, takeField_withoutInput, bind_map_left]
  | clSym5 | llSym9 | dSym5 =>
    simp only [readWord, decodeWith_withoutInput, bind_map_left]
    rfl
  | zlibHdr16 | blockHdr3 | byte8 | dynHdr14 | cll3 =>
    simp only [readWord, takeField_withoutInput, bind_map_left]

theorem fetch_withoutInput (f : Format) : fetch f (withoutInput s) = fetch f s := by
  rw [fetch, readWord_withoutInput]
  rfl

theorem nextElement_withoutInput : nextElement (withoutInput s) = nextElement s := by
  simp only [nextElement, fetch_withoutInput]
  rfl

end

/-! ### The operations -/

section
variable (s : State)

theorem takeField_alike (n : Nat) :
    HoldAlike s.rd.srcEnd (fun p => SameInput s p.2) (takeField n s) (takeField n (withoutInput s)) := by
  rw [takeField_eq, takeField_eq]
  exact .read ⟨rfl, rfl, rfl⟩ ⟨rfl, rfl, rfl⟩ .raise .raise

theorem takeExtra_alike (row : Nat × Nat) :
    HoldAlike s.rd.srcEnd (fun p => SameInput s p.2) (takeExtra row s) (takeExtra row (withoutInput s)) :=
  (takeField_alike s row.1).bind (fun _ h => .ok h) fun _ h => .ok h

theorem takeCode_alike (n : Nat) :
    HoldAlike s.rd.srcEnd (fun p => SameInput s p.2) (takeCode n s) (takeCode n (withoutInput s)) := by
  rw [takeCode_eq, takeCode_eq]
  exact .read ⟨rfl, rfl, rfl⟩ ⟨rfl, rfl, rfl⟩ .raise .raise

theorem peekField_alike (n : Nat) :
    HoldAlike s.rd.srcEnd (fun _ => True) (peekField n s) (peekField n (withoutInput s)) := by
  rw [peekField_eq, peekField_eq]
  exact .read trivial trivial .raise .raise

theorem peekCode_alike (n : Nat) :
    HoldAlike s.rd.srcEnd (fun _ => True) (peekCode n s) (peekCode n (withoutInput s)) := by
  rw [peekCode_eq, peekCode_eq]
  exact .read trivial trivial .raise .raise

theorem discard_alike (n : Nat) : HoldAlike s.rd.srcEnd (SameInput s) (discard n s) (discard n (withoutInput s)) := by
  rw [discard_eq, discard_eq]
  exact .read ⟨rfl, rfl, rfl⟩ ⟨rfl, rfl, rfl⟩ .raise .raise

theorem startsWith_alike (p : Bits) :
    HoldAlike s.rd.srcEnd (fun _ => True) (startsWith p s) (startsWith p (withoutInput s)) :=
  .read trivial trivial (.ok trivial) (.ok trivial)

theorem hasBits_alike (n : Nat) : HoldAlike s.rd.srcEnd (fun _ => True) (hasBits n s) (hasBits n (withoutInput s)) :=
  .read trivial trivial (.ok trivial) (.ok trivial)

theorem decodeWith_alike (lens : List CodeLen) :
    HoldAlike s.rd.srcEnd (fun p => SameInput s p.2) (decodeWith lens s) (decodeWith lens (withoutInput s)) := by
  rw [decodeWith_withoutInput]
  refine .of_map (decodeWith_ends (w := 0) lens) (fun p hp => ?_) fun p hp => ?_ <;> rw [hp.2] <;>
    exact ⟨rfl, rfl, rfl⟩

variable {s}

theorem SameInput.flushCheck {t : State} (h : SameInput s t) (next : FsmState) : SameInput s (flushCheck next t) := by
  rw [SameInput, flushCheck_rd]
  exact h

theorem repeatLength_finishes {t : State} (h : SameInput s t) (r : Nat) (v : CodeLen) :
    Finishes (SameInput s) (repeatLength r v t) := .ite .raise (.ok h)

variable (s)

theorem winByte_finishes (j : Nat) : Finishes (fun _ => True) (winByte j s) := by
  unfold winByte
  split
  · exact .ok trivial
  · exact .fault

theorem winBytes_finishes (j n : Nat) : Finishes (fun _ => True) (winBytes j n s) := by
  induction n generalizing j with
  | zero => exact .ok trivial
  | succ n ih => exact (winByte_finishes s j).bind fun _ _ => (ih (j + 1)).bind fun _ _ => .ok trivial

theorem lastN_finishes (n : Nat) : Finishes (fun _ => True) (lastN n s) :=
  .ite (.ok trivial) ((winBytes_finishes s _ n).bind fun _ _ => .ok trivial)

theorem winRead_finishes (i : Nat) : Finishes (fun _ => True) (winRead i s) :=
  .ite ((winByte_finishes s i).bind fun _ _ => .ok trivial) (.ok trivial)

theorem appendBackref_finishes (d : Nat) : Finishes (SameInput s) (appendBackref d s) :=
  .ite .refuse (.ite .raise ((winByte_finishes s _).bind fun _ _ => .ok ⟨rfl, rfl, rfl⟩))

theorem buildTable_finishes (lens : List CodeLen) : Finishes (fun _ => True) (buildTable lens s) := by
  unfold buildTable
  split
  · exact .ok trivial
  · exact .raise

/-- A setup step builds two tables, then writes. -/
theorem setup_finishes {t u : State} (h : SameInput s u) (ll d : List CodeLen) :
    Finishes (SameInput s) (buildTable ll t >>= fun _ => buildTable d t >>= fun _ => .ok u) :=
  (buildTable_finishes t ll).bind fun _ _ => (buildTable_finishes t d).bind fun _ _ => .ok h

/-- No internal step of the FSM reads the input. -/
theorem internalStep_finishes : Finishes (SameInput s) (internalStep s) := by
  cases hst : s.fsm.state <;> simp only [internalStep, hst]
  case fixedSetup => refine setup_finishes s ?_ _ _; exact ⟨rfl, rfl, rfl⟩
  case dynClBuild => exact (buildTable_finishes s _).bind fun _ _ => .ok ⟨rfl, rfl, rfl⟩
  case dynBuild => refine setup_finishes s ?_ _ _; exact ⟨rfl, rfl, rfl⟩
  case copy =>
    refine (appendBackref_finishes s _).bind fun _ h => .ok (.flushCheck ?_ _)
    exact h
  case flush => exact .ite ((winByte_finishes s _).bind fun _ _ => .ok ⟨rfl, rfl, rfl⟩) (.ok ⟨rfl, rfl, rfl⟩)
  case blockEnd =>
    exact .ite (.ok ⟨rfl, rfl, rfl⟩) (.ite (.ok ⟨rfl, rfl, rfl⟩) (.ok ⟨rfl, rfl, rfl⟩))
  all_goals exact .ok ⟨rfl, rfl, rfl⟩

end

/-! ### The instructions -/

section
variable (s : State)

/-- Extra bits after a codeword, then the run. -/
theorem repeat_alike (row : Nat × Nat) (v : State → CodeLen) (sym : Nat) :
    HoldAlike s.rd.srcEnd (SameInput s) (takeExtra row (pastCl sym s) >>= fun p => repeatLength p.1 (v p.2) p.2)
      (takeExtra row (pastCl sym (withoutInput s)) >>= fun p => repeatLength p.1 (v p.2) p.2) :=
  HoldAlike.bind (takeExtra_alike (pastCl sym s) row) (fun _ h => repeatLength_finishes h _ _)
    fun _ h => repeatLength_finishes h _ _

theorem lengthMeaning_alike (sym : Nat) :
    StepsAlike s (lengthMeaning sym s) (lengthMeaning sym (withoutInput s)) :=
  settle_alike <| .ite ((takeExtra_alike s _).bind (fun _ h => .ok h) fun _ h => .ok h)
    (.finish (.ok ⟨rfl, rfl, rfl⟩) (.ok ⟨rfl, rfl, rfl⟩))

theorem distMeaning_alike (sym : Nat) : StepsAlike s (distMeaning sym s) (distMeaning sym (withoutInput s)) :=
  settle_alike <| .ite
    ((takeExtra_alike s _).bind (fun _ h => .ite .raise (.ok h)) fun _ h => .ite .raise (.ok h))
    (.finish (.ok ⟨rfl, rfl, rfl⟩) (.ok ⟨rfl, rfl, rfl⟩))

/-- A command that takes bits and answers. -/
theorem answer_take_alike {r r' : Run (Nat × State)} (h : HoldAlike s.rd.srcEnd (fun p => SameInput s p.2) r r')
    (f : Nat → Response) :
    HoldAlike s.rd.srcEnd (SameInput s) (r >>= fun p => .ok (answer (f p.1) p.2))
      (r' >>= fun p => .ok (answer (f p.1) p.2)) :=
  h.bind (fun _ h => .ok h) fun _ h => .ok h

/-- A command that looks at the input and answers. -/
theorem answer_look_alike {α : Type} {r r' : Run α} (h : HoldAlike s.rd.srcEnd (fun _ => True) r r') (f : α → Response) :
    HoldAlike s.rd.srcEnd (SameInput s) (r >>= fun a => .ok (answer (f a) s))
      (r' >>= fun a => .ok (answer (f a) (withoutInput s))) :=
  h.bind (fun _ _ => .ok ⟨rfl, rfl, rfl⟩) fun _ _ => .ok ⟨rfl, rfl, rfl⟩

/-- DISCARD and ALIGN. -/
theorem answer_discard_alike (n : Nat) :
    HoldAlike s.rd.srcEnd (SameInput s) (discard n s >>= fun t => .ok (answer .completed t))
      (discard n (withoutInput s) >>= fun t => .ok (answer .completed t)) :=
  (discard_alike s n).bind (fun _ h => .ok h) fun _ h => .ok h

theorem execCll_keeps (len : BitVec 3) : Keeps s (execCll len s) := by
  refine settle_keeps ?_
  split
  · exact .fault
  · exact .ok ⟨rfl, rfl, rfl⟩

theorem execCmdWinRead_keeps (i : Nat) : Keeps s (execCmdWinRead i s) :=
  settleCommand_keeps ((winRead_finishes s i).bind fun _ _ => .ok ⟨rfl, rfl, rfl⟩)

theorem execCmdDecode_alike (table : TableSel) :
    StepsAlike s (execCmdDecode table s) (execCmdDecode table (withoutInput s)) := by
  have hlens : (withoutInput s).tableLens table = s.tableLens table := by cases table <;> rfl
  rw [execCmdDecode, execCmdDecode, hlens]
  exact settleCommand_alike (answer_take_alike s (decodeWith_alike s _) .symbol)

/-- Both runs of an instruction hold, or neither does. -/
theorem exec_alike (i : Instr) : StepsAlike s (exec i s) (exec i (withoutInput s)) := by
  cases i with
  | zlibHeader | storedHeader =>
    exact .of_keeps fun _ => settle_keeps (.ite .raise (.ok ⟨rfl, rfl, rfl⟩))
  | blockStored | blockFixed | blockDynamic | dynHeader | eob =>
    exact .of_keeps fun _ => settle_keeps (.ok ⟨rfl, rfl, rfl⟩)
  | blockInvalid | clInvalid19 | clInvalid20 | clInvalid24 | llInvalid | dInvalid =>
    exact .of_keeps fun _ => settle_keeps .raise
  | storedByte | lit => exact .of_keeps fun _ => settle_keeps (.ok (.flushCheck ⟨rfl, rfl, rfl⟩ _))
  | cll len => exact .of_keeps fun u => execCll_keeps u len
  | clLit c => exact .of_keeps fun _ => settle_keeps (.ite (.ok ⟨rfl, rfl, rfl⟩) .fault)
  | rep16 => exact settle_alike (.ite (.finish .raise .raise) (repeat_alike s _ previousLength 16))
  | zero17 => exact settle_alike (repeat_alike s _ (fun _ => 0) 17)
  | zero18 => exact settle_alike (repeat_alike s _ (fun _ => 0) 18)
  | len257 | len258 | len259 | len260 | len261 | len262 | len263 | len264 | len265 | len266 | len267 | len268 | len269
  | len270 | len271 | len272 | len273 | len274 | len275 | len276 | len277 | len278 | len279 | len280 | len281 | len282
  | len283 | len284 | len285 => exact lengthMeaning_alike s _
  | dist0 | dist1 | dist2 | dist3 | dist4 | dist5 | dist6 | dist7 | dist8 | dist9 | dist10 | dist11 | dist12 | dist13
  | dist14 | dist15 | dist16 | dist17 | dist18 | dist19 | dist20 | dist21 | dist22 | dist23 | dist24 | dist25 | dist26
  | dist27 | dist28 | dist29 => exact distMeaning_alike s _
  | cmdTakeField n => exact settleCommand_alike (.checked (answer_take_alike s (takeField_alike s n) .value))
  | cmdTakeCode n => exact settleCommand_alike (.checked (answer_take_alike s (takeCode_alike s n) .value))
  | cmdPeekField n => exact settleCommand_alike (.checked (answer_look_alike s (peekField_alike s n) .value))
  | cmdPeekCode n => exact settleCommand_alike (.checked (answer_look_alike s (peekCode_alike s n) .value))
  | cmdDiscard n => exact settleCommand_alike (.checked (answer_discard_alike s n))
  | cmdAlign => exact settleCommand_alike (answer_discard_alike s (alignPad s))
  | cmdStartsWith p => exact settleCommand_alike (.checked (answer_look_alike s (startsWith_alike s p) .flag))
  | cmdHasBits n => exact settleCommand_alike (.checked (answer_look_alike s (hasBits_alike s n) .flag))
  | cmdDecode table => exact execCmdDecode_alike s table
  | cmdAppendLiteral b => exact .of_keeps fun _ => settleCommand_keeps (.ok ⟨rfl, rfl, rfl⟩)
  | cmdAppendBackref d =>
    exact .of_keeps fun u => settleCommand_keeps ((appendBackref_finishes u d).bind fun _ h => .ok h)
  | cmdLastN n =>
    exact .of_keeps fun u => settleCommand_keeps ((lastN_finishes u n).bind fun _ _ => .ok ⟨rfl, rfl, rfl⟩)
  | cmdWinRead i => exact .of_keeps fun u => execCmdWinRead_keeps u i
  | cmdBuild lens =>
    exact .of_keeps fun u =>
      settleCommand_keeps (.checked ((buildTable_finishes u lens).bind fun _ _ => .ok ⟨rfl, rfl, rfl⟩))
  | cmdReserved low => exact .of_keeps fun _ => settleCommand_keeps .refuse

end

/-! ### The step of the core -/

section
variable {s : State}

/-- A fetch stops on missing input only before its end. -/
theorem nextElement_ends {r : Run Instr} (h : nextElement s = some r) : ∃ P, Ends 0 s P r := by
  obtain ⟨f, rfl⟩ | ⟨-, rfl⟩ | ⟨-, rfl⟩ := nextElement_some h
  · exact ⟨_, fetch_ends s f⟩
  · exact ⟨_, fetchLength_ends s⟩
  · exact ⟨_, fetchDistance_ends s⟩

theorem coreStep_alike (s : State) : StepsAlike s (coreStep s) (coreStep (withoutInput s)) := by
  rw [coreStep, coreStep, nextElement_withoutInput]
  cases hn : nextElement s with
  | none => exact settle_alike (.finish (internalStep_finishes s) (internalStep_finishes (withoutInput s)))
  | some r =>
    obtain ⟨P, hends⟩ := nextElement_ends hn
    cases hends with
    | @ok i _ => exact exec_alike s i
    | stop h => exact settle_alike (.error fun he => by subst he; exact h)

/-- Everything a step of the core can do with the input: it holds, and then `in_req` is 1, or it leaves the input as it is. -/
theorem coreStep_input (s : State) :
    (inReq s = true ∧ s.rd.srcEnd = false ∧ coreStep s = .next (holdInput s)) ∨
    (inReq s = false ∧ Keeps s (coreStep s)) := by
  have halike := coreStep_alike s
  generalize hstep : coreStep s = o at halike ⊢
  unfold inReq
  generalize coreStep (withoutInput s) = o' at halike ⊢
  cases halike with
  | hold h => exact .inl ⟨by simp [holdInput, withoutInput, h], h, rfl⟩
  | keep h h' =>
    refine .inr ⟨?_, h⟩
    cases o' with
    | next t =>
      obtain ⟨-, -, hend⟩ := h' t rfl
      simp [hend]
    | fault | refused => rfl

end

/-- Settles O55: a step of the core is one or the other; a delivery is taken where the step would hold, and `in_req` does not
depend on the actions still to come. -/
theorem inputIsTakenOnRequest : Obligations.InputIsTakenOnRequest := by
  refine ⟨fun s t ha hstep => ?_, fun s b rest ha => ?_⟩
  · have hcore : coreStep s = .next t := by rw [← hstep, step, ha]
    obtain ⟨hreq, hend, hhold⟩ | ⟨hreq, hkeeps⟩ := coreStep_input s
    · obtain rfl : holdInput s = t := Host.Outcome.next.inj (hhold.symm.trans hcore)
      refine ⟨fun _ => ⟨hend, held_holdInput s⟩, fun h => absurd h (by simp [hreq]), fun hne => ⟨hreq, hend, ?_⟩⟩
      obtain h | ⟨-, -, h⟩ | ⟨-, -, h⟩ := holdInput_cases s
      · exact h
      · exact absurd (by rw [h]) hne
      · exact absurd (by rw [h]) hne
    · have hsame := hkeeps t hcore
      exact ⟨fun h => absurd h (by simp [hreq]), fun _ => hsame, fun hne => absurd hsame.1 hne⟩
  · have hreq : inReq { s with host.actions := rest } = inReq s := rfl
    rw [step_action ha (by simp), hostAction]
    obtain ⟨h, c, cs, hsrc, ht⟩ | ⟨h, ht⟩ := deliverByte_cases b { s with host.actions := rest }
    · refine ⟨fun _ c' cs' hsrc' => ?_, fun h' => absurd h (by simp [hreq, h'])⟩
      obtain ⟨rfl, rfl⟩ := List.cons.inj (hsrc.symm.trans hsrc')
      rw [ht]
    · exact ⟨fun h' => absurd h (by simp [hreq, h']), fun _ => by rw [ht]⟩

end Sys2Proof.Machine

namespace Sys2Proof.Machine

/-! ## The history window

An Append needs nothing; a read needs its position to hold a byte, which `Sound.window` gives for every position the
window still holds. -/

/-! ### Append and AppendBackref -/

section
variable {s : State} {d : Nat} {b : Byte}

theorem appended_append (b : Byte) (s : State) : Appended b s (append b s) := appended_of_win rfl

theorem append_read_same (b : Byte) (s : State) :
    (append b s).win.mem.read (s.win.size % Config.windowSize) = some b := read_write_same _ _ _

theorem append_read_other (b : Byte) (s : State) {a : Nat} (ha : a ≠ s.win.size % Config.windowSize) :
    (append b s).win.mem.read a = s.win.mem.read a := read_write_other _ _ ha

/-- Two positions less than a window apart have different addresses (20_memory R201). -/
theorem mod_windowSize_ne {i j : Nat} (hij : i < j) (hj : j < i + Config.windowSize) :
    i % Config.windowSize ≠ j % Config.windowSize := by
  simp only [Config.windowSize] at hj ⊢
  omega

theorem append_sound (b : Byte) (hs : Sound s) : Sound (append b s) :=
  Change.sound (appended_change (n := 0) b rfl id rfl rfl rfl rfl) hs

/-- A back-reference to a position that holds a byte appends that byte. -/
theorem appendBackref_of_read (h1 : 1 ≤ d) (hmax : d ≤ Config.windowSize) (hsize : d ≤ s.win.size)
    (hb : s.win.mem.read ((s.win.size - d) % Config.windowSize) = some b) : appendBackref d s = .ok (append b s) := by
  rw [appendBackref_eq, if_neg (by omega), if_neg (by omega), hb]

/-- Every legal distance within a sound window reaches a byte. -/
theorem Sound.backref (hs : Sound s) (h1 : 1 ≤ d) (hmax : d ≤ Config.windowSize) (hsize : d ≤ s.win.size) :
    ∃ b, s.win.mem.read ((s.win.size - d) % Config.windowSize) = some b :=
  hs.window _ (by omega) (by omega)

/-- A command that appends one byte and completes. -/
theorem appends_of_eq {o : Host.Outcome State Fault Refusal} (h : o = .next (answer .completed (append b s))) :
    ∃ t, o = .next t ∧ Moved 0 s t ∧ Appended b s t ∧ Answered .completed s t :=
  ⟨_, h, rfl, appended_append b s, rfl, rfl, rfl, rfl, rfl⟩

end

/-- Settles O29: each command is AppendLiteral's write, AppendBackref's, or its fault entry. -/
theorem appendsWriteOneByte : Obligations.AppendsWriteOneByte := by
  refine fun s => ⟨fun b => appends_of_eq rfl, fun d b h1 hmax hsize hb => appends_of_eq ?_, fun d h1 hmax hsize => ?_⟩
  · rw [exec, execCmdAppendBackref, appendBackref_of_read h1 hmax hsize hb]
    rfl
  · rw [exec, execCmdAppendBackref, appendBackref_eq, if_neg (by simp only [Config.windowSize]; omega), if_pos hsize]
    exact ⟨_, rfl, faulted_takeFault _ _ (popCommand s)⟩

/-! ### LAST_N and WIN_READ -/

section
variable {s : State} {n i : Nat}

/-- The last bytes of a sound window are all there. -/
theorem Sound.lastN (hs : Sound s) (hn : n ≤ min s.win.size Config.windowSize) :
    ∃ l, winBytes (s.win.size - n) n s = .ok l ∧ exec (.cmdLastN n) s = .next (answer (.bytes l) s) := by
  obtain ⟨l, hl⟩ := winBytes_total (s := s) (n := n) (j := s.win.size - n) fun i hi =>
    hs.window _ (by omega) (by omega)
  refine ⟨l, hl, ?_⟩
  rw [exec, execCmdLastN, Machine.lastN, if_neg (by omega), hl]
  rfl

theorem exec_cmdLastN_range (hn : min s.win.size Config.windowSize < n) :
    exec (.cmdLastN n) s = .next (answer .rangeError s) := by
  rw [exec, execCmdLastN, lastN, if_pos hn]
  rfl

/-- A position the sound window still holds is read. -/
theorem Sound.winRead (hs : Sound s) (hi : s.win.size - Config.windowSize ≤ i ∧ i < s.win.size) :
    ∃ b, s.win.mem.read (i % Config.windowSize) = some b ∧ exec (.cmdWinRead i) s = .next (answer (.byte b) s) := by
  obtain ⟨b, hb⟩ := hs.window i hi.2 (by omega)
  refine ⟨b, hb, ?_⟩
  rw [exec, execCmdWinRead, Machine.winRead, if_pos hi, winByte_ok.mpr hb]
  rfl

theorem exec_cmdWinRead_range (hi : ¬(s.win.size - Config.windowSize ≤ i ∧ i < s.win.size)) :
    exec (.cmdWinRead i) s = .next (answer .rangeError s) := by
  rw [exec, execCmdWinRead, winRead, if_neg hi]
  rfl

end

/-- Settles O30: in range the window holds the bytes, by `Sound`; out of range the refusal is the answer. -/
theorem windowReadsAnswerOrRefuseRange : Obligations.WindowReadsAnswerOrRefuseRange := by
  refine fun s hs => ⟨fun n hn => ?_, fun n hn => answers_here_of_eq (exec_cmdLastN_range hn), fun i hlo hhi => ?_,
    fun i hi => answers_here_of_eq (exec_cmdWinRead_range hi)⟩
  · obtain ⟨l, hl, hexec⟩ := hs.lastN hn
    obtain ⟨t, ht, hmoved, hwin, hans⟩ := answers_here_of_eq hexec
    obtain ⟨hlen, hbytes⟩ := winBytes_ok hl
    exact ⟨t, l, ht, hmoved, hwin, hans, hlen, hbytes⟩
  · obtain ⟨b, hb, hexec⟩ := hs.winRead ⟨hlo, hhi⟩
    obtain ⟨t, ht, hmoved, hwin, hans⟩ := answers_here_of_eq hexec
    exact ⟨t, b, ht, hmoved, hwin, hans, hb⟩

/-! ### The byte-serial copy -/

/-- Everything is as before but `size` and the bytes of the window. -/
def SameButBytes (s t : State) : Prop :=
  t.win.flushed = s.win.flushed ∧ t.rd = s.rd ∧ t.tbl = s.tbl ∧ t.fsm = s.fsm ∧ SameOutside s t

/-- `n` bytes have been written from position `size` on, each that of the pattern of the last `d`
(41_history_window R509). -/
structure Replicated (d n : Nat) (s t : State) : Prop where
  size : t.win.size = s.win.size + n
  pattern : ∀ k, k < n → t.win.mem.read ((s.win.size + k) % Config.windowSize) =
    s.win.mem.read ((s.win.size + k % d - d) % Config.windowSize)
  others : ∀ a, (∀ k, k < n → a ≠ (s.win.size + k) % Config.windowSize) → t.win.mem.read a = s.win.mem.read a
  rest : SameButBytes s t

section
variable {s t : State} {d n : Nat} {b : Byte}

/-- The pattern of the window after one byte of the copy is that of the window before it, one byte on. -/
theorem append_read_pattern (h1 : 1 ≤ d) (hmax : d ≤ Config.windowSize) (hsize : d ≤ s.win.size)
    (hb : s.win.mem.read ((s.win.size - d) % Config.windowSize) = some b) (k : Nat) :
    (append b s).win.mem.read ((s.win.size + 1 + k % d - d) % Config.windowSize) =
      s.win.mem.read ((s.win.size + (k + 1) % d - d) % Config.windowSize) := by
  have hk : k % d < d := Nat.mod_lt _ h1
  have hsucc : (k + 1) % d = (k % d + 1) % d := (Nat.mod_add_mod k d 1).symm
  by_cases hlast : k % d + 1 = d
  · have hpos : s.win.size + 1 + k % d - d = s.win.size := by omega
    rw [hsucc, hlast, Nat.mod_self, hpos, append_read_same, Nat.add_zero, hb]
  · rw [hsucc, Nat.mod_eq_of_lt (by omega : k % d + 1 < d), ← Nat.add_assoc, Nat.add_right_comm, append_read_other]
    exact mod_windowSize_ne (by omega) (by omega)

/-- One byte, then the copy of the rest. -/
theorem Replicated.cons (h1 : 1 ≤ d) (hmax : d ≤ Config.windowSize) (hsize : d ≤ s.win.size)
    (hb : s.win.mem.read ((s.win.size - d) % Config.windowSize) = some b) (hn : n < Config.windowSize)
    (h : Replicated d n (append b s) t) : Replicated d (n + 1) s t where
  size := by rw [h.size, append_win_size]; omega
  pattern k hk := by
    cases k with
    | zero =>
      rw [Nat.add_zero, Nat.zero_mod, Nat.add_zero, hb, h.others, append_read_same]
      intro k hk
      rw [append_win_size]
      exact mod_windowSize_ne (by omega) (by omega)
    | succ k =>
      rw [← append_read_pattern h1 hmax hsize hb, ← Nat.add_assoc, Nat.add_right_comm]
      exact h.pattern k (by omega)
  others a ha := by
    rw [h.others a fun k hk => ?_, append_read_other b s (ha 0 (by omega))]
    rw [append_win_size, Nat.add_right_comm]
    exact ha (k + 1) (by omega)
  rest := h.rest

theorem copyRun_replicates (h1 : 1 ≤ d) (hmax : d ≤ Config.windowSize) (hn : n ≤ Config.windowSize) (hs : Sound s)
    (hsize : d ≤ s.win.size) : ∃ t, copyRun d n s = .ok t ∧ Replicated d n s t := by
  induction n generalizing s with
  | zero =>
    exact ⟨s, rfl, rfl, fun k hk => absurd hk (Nat.not_lt_zero k), fun _ _ => rfl, rfl, rfl, rfl, rfl, rfl, rfl, rfl⟩
  | succ n ih =>
    obtain ⟨b, hb⟩ := hs.backref h1 hmax hsize
    obtain ⟨t, ht, hrep⟩ := ih (by omega) (append_sound b hs) (by rw [append_win_size]; omega)
    refine ⟨t, ?_, hrep.cons h1 hmax hsize hb (by omega)⟩
    rw [copyRun, appendBackref_of_read h1 hmax hsize hb]
    exact ht

end

/-- Settles O42, by induction on the number of bytes. -/
theorem copyReplicatesPattern : Obligations.CopyReplicatesPattern := by
  intro s d n hs h1 hd hn
  obtain ⟨t, ht, hrep⟩ := copyRun_replicates h1 (Nat.le_trans hd (Nat.min_le_right _ _))
    (Nat.le_trans hn (by decide)) hs (Nat.le_trans hd (Nat.min_le_left _ _))
  exact ⟨t, ht, hrep.size, hrep.pattern, hrep.others, hrep.rest⟩

end Sys2Proof.Machine

namespace Sys2Proof.Machine

/-! ## A session keeps its protocol

`Session` is cut in two: the storage is `Sound`, which every step keeps (`Change.sound`), and the rest is `Protocol`: what
the session has put out (`Ledger`), how full the open chunk is, and what each FSM state demands of the registers it works
with (`Demands`). The demands are those of the state the FSM is in or returns to from FLUSH, so FLUSH itself makes none. A
step then shows that it neither faults nor is refused (`Proceeds`) and meets the demands of the state it enters. -/

/-- The states FLUSH returns to (41_history_window R512, 43_block_fsm R742). -/
def Resumable (st : FsmState) : Prop := st = .storedCopy ∨ st = .bodySym ∨ st = .copy ∨ st = .blockEnd

/-- TBL_LL and TBL_D exist. -/
def BodyTables (s : State) : Prop := (build s.llLens).isSome ∧ (build s.dLens).isSome

/-- What the protocol demands where the FSM is in the state `st`, or returns to it. -/
def Demands (s : State) : FsmState → Prop
  | .idle => s.win.size = 0
  | .storedCopy => 0 < s.fsm.storedRem.toNat ∧ s.rd.offset % 8 = 0
  | .dynCll => s.fsm.cllIdx.toNat < s.fsm.hclenR.toNat + 4 ∧ s.fsm.lensN.toNat ≤ totalLengths s
  | .dynClBuild => s.fsm.lensN.toNat ≤ totalLengths s
  | .dynLens => s.fsm.lensN.toNat ≤ totalLengths s ∧ (build s.clLens).isSome
  | .bodySym => BodyTables s
  | .lenExtra => BodyTables s ∧ 257 ≤ s.fsm.symR.toNat ∧ s.fsm.symR.toNat ≤ 285
  | .distSym => BodyTables s ∧ 3 ≤ s.fsm.lengthR.toNat ∧ s.fsm.lengthR.toNat ≤ 258
  | .distExtra => BodyTables s ∧ (3 ≤ s.fsm.lengthR.toNat ∧ s.fsm.lengthR.toNat ≤ 258) ∧ s.fsm.symR.toNat ≤ 29
  | .copy => BodyTables s ∧ 1 ≤ s.fsm.copyRem.toNat ∧ s.fsm.copyRem.toNat ≤ 258 ∧
      1 ≤ s.fsm.distR.toNat ∧ s.fsm.distR.toNat ≤ Config.windowSize ∧ s.fsm.distR.toNat ≤ s.win.size
  | .done => s.win.flushed = s.win.size
  | .zhdr | .hdr | .storedHdr | .fixedSetup | .dynHdr | .dynBuild | .flush | .blockEnd | .error => True

/-- What the session has put out, and that no command stream disturbs it. -/
structure Ledger (s : State) : Prop where
  noCommands : s.host.commands = []
  noIssue : ∀ c, HostAction.issue c ∉ s.host.actions
  flushedLe : s.win.flushed ≤ s.win.size
  emittedCount : s.host.emitted.length = s.win.flushed
  emittedBytes : ∀ j, j < s.win.flushed → s.win.size ≤ j + Config.windowSize →
    s.host.emitted[j]?.map OutByte.byte = s.win.mem.read (j % Config.windowSize)

/-- `Session` without the soundness of the storage. -/
structure Protocol (s : State) : Prop where
  ledger : Ledger s
  flushing : s.fsm.state = .flush →
    0 < unflushed s ∧ unflushed s ≤ s.cfg.flushT.toNat ∧ Resumable s.fsm.retR
  notFlushing : s.fsm.state ≠ .flush → unflushed s < s.cfg.flushT.toNat
  demands : Demands s (resumeState s)

/-! ### The protocol and `Session` -/

section
variable {s t : State} {st : FsmState}

theorem Resumable.ne_flush (h : Resumable st) : st ≠ .flush := by
  obtain rfl | rfl | rfl | rfl := h <;> nofun

theorem ne_flush_of_eq (h : s.fsm.state = st) (hne : st ≠ .flush) : s.fsm.state ≠ .flush := h ▸ hne

theorem resumeState_flush (h : s.fsm.state = .flush) : resumeState s = s.fsm.retR := if_pos h

theorem resumeState_of_ne (h : s.fsm.state = st) (hne : st ≠ .flush) : resumeState s = st := by
  rw [resumeState, if_neg (h ▸ hne), h]

theorem Protocol.demands_resume (h : Protocol s) (hst : resumeState s = st) : Demands s st := hst ▸ h.demands

theorem Protocol.demands_at (h : Protocol s) (hst : s.fsm.state = st) (hne : st ≠ .flush) : Demands s st :=
  h.demands_resume (resumeState_of_ne hst hne)

/-- FLUSH keeps the demands of the state it returns to; every other state has its own. -/
theorem Session.demands (h : Session s) : Demands s (resumeState s) := by
  by_cases hst : s.fsm.state = .flush
  · have hR := resumeState_flush hst
    obtain ⟨-, -, hret⟩ := h.flushing hst
    obtain hr | hr | hr | hr := hret <;> rw [hr] at hR <;> rw [hR]
    · exact h.stored hR
    · exact h.bodyTables (.inl hR)
    · exact ⟨h.bodyTables (.inr (.inr (.inr (.inr hR)))), h.copying hR⟩
    · trivial
  · have hR := resumeState_of_ne rfl hst
    rw [hR]
    cases hr : s.fsm.state <;> rw [hr] at hR
    case idle => exact h.idle hr
    case storedCopy => exact h.stored hR
    case dynCll => exact ⟨h.cll hr, h.sequence (.inl hr)⟩
    case dynClBuild => exact h.sequence (.inr (.inl hr))
    case dynLens => exact ⟨h.sequence (.inr (.inr hr)), h.clTable hr⟩
    case bodySym => exact h.bodyTables (.inl hR)
    case lenExtra => exact ⟨h.bodyTables (.inr (.inl hR)), h.lengthSym hr⟩
    case distSym => exact ⟨h.bodyTables (.inr (.inr (.inl hR))), h.length (.inl hr)⟩
    case distExtra => exact ⟨h.bodyTables (.inr (.inr (.inr (.inl hR)))), h.length (.inr hr), h.distSym hr⟩
    case copy => exact ⟨h.bodyTables (.inr (.inr (.inr (.inr hR)))), h.copying hR⟩
    case done => exact h.done hr
    all_goals trivial

theorem Session.protocol (h : Session s) : Protocol s where
  ledger := ⟨h.noCommands, h.noIssue, h.flushedLe, h.emittedCount, h.emittedBytes⟩
  flushing := h.flushing
  notFlushing := h.notFlushing
  demands := h.demands

theorem Protocol.bodyTables (h : Protocol s) (hr : resumeState s = .bodySym ∨ resumeState s = .lenExtra ∨
    resumeState s = .distSym ∨ resumeState s = .distExtra ∨ resumeState s = .copy) : BodyTables s := by
  obtain hr | hr | hr | hr | hr := hr
  · exact h.demands_resume hr
  · exact (h.demands_resume hr).1
  · exact (h.demands_resume hr).1
  · exact (h.demands_resume hr).1
  · exact (h.demands_resume hr).1

theorem Protocol.session (h : Protocol s) (hs : Sound s) : Session s where
  toSound := hs
  noCommands := h.ledger.noCommands
  noIssue := h.ledger.noIssue
  flushedLe := h.ledger.flushedLe
  idle hst := h.demands_at hst nofun
  flushing := h.flushing
  notFlushing := h.notFlushing
  done hst := h.demands_at hst nofun
  cll hst := (h.demands_at hst nofun).1
  sequence := by
    rintro (hst | hst | hst)
    · exact (h.demands_at hst nofun).2
    · exact h.demands_at hst nofun
    · exact (h.demands_at hst nofun).1
  clTable hst := (h.demands_at hst nofun).2
  bodyTables := h.bodyTables
  stored hr := h.demands_resume hr
  lengthSym hst := (h.demands_at hst nofun).2
  length := by
    rintro (hst | hst)
    · exact (h.demands_at hst nofun).2
    · exact (h.demands_at hst nofun).2.1
  distSym hst := (h.demands_at hst nofun).2.2
  copying hr := (h.demands_resume hr).2
  emittedCount := h.ledger.emittedCount
  emittedBytes := h.ledger.emittedBytes

end

/-! ### How a step enters its next state -/

/-- All that the protocol speaks of is as before, or is a host action fewer. -/
structure SameSession (s t : State) : Prop where
  actions : ∀ a ∈ t.host.actions, a ∈ s.host.actions
  commands : t.host.commands = s.host.commands
  emitted : t.host.emitted = s.host.emitted
  win : t.win = s.win
  fsm : t.fsm = s.fsm
  tbl : t.tbl = s.tbl
  offset : t.rd.offset = s.rd.offset
  flushT : t.cfg.flushT = s.cfg.flushT

section
variable {s t : State} {st next : FsmState}

theorem Ledger.of_same (h : Ledger s) (hact : ∀ a ∈ t.host.actions, a ∈ s.host.actions)
    (hcmd : t.host.commands = s.host.commands) (hem : t.host.emitted = s.host.emitted) (hwin : t.win = s.win) :
    Ledger t where
  noCommands := hcmd.trans h.noCommands
  noIssue c hc := h.noIssue c (hact _ hc)
  flushedLe := hwin ▸ h.flushedLe
  emittedCount := by rw [hem, hwin]; exact h.emittedCount
  emittedBytes := by rw [hem, hwin]; exact h.emittedBytes

/-- An Append overwrites no byte that the window still holds (41_history_window R514). -/
theorem Ledger.append {b : Byte} (h : Ledger s) (hhost : t.host = s.host) (hwin : t.win = (append b s).win) :
    Ledger t where
  noCommands := hhost ▸ h.noCommands
  noIssue := hhost ▸ h.noIssue
  flushedLe := by rw [hwin]; exact Nat.le_succ_of_le h.flushedLe
  emittedCount := by rw [hhost, hwin]; exact h.emittedCount
  emittedBytes j hj hw := by
    have hle := h.flushedLe
    rw [hwin, append_win_size] at hw
    rw [hwin, append_win_flushed] at hj
    rw [hhost, hwin, append_read_other]
    · exact h.emittedBytes j hj (by omega)
    · exact mod_windowSize_ne (by omega) (by omega)

theorem Demands.of_same (h : Demands s st) (hwin : t.win = s.win) (hfsm : t.fsm = s.fsm) (htbl : t.tbl = s.tbl)
    (hoff : t.rd.offset = s.rd.offset) : Demands t st := by
  obtain ⟨⟨_, _, _, _⟩, _, _, _, _, _, _⟩ := s
  obtain ⟨⟨_, _, _, _⟩, _, _, _, _, _, _⟩ := t
  simp only at hwin hfsm htbl hoff
  subst hwin hfsm htbl hoff
  exact h

theorem Protocol.of_same (h : Protocol s) (hst : SameSession s t) : Protocol t where
  ledger := h.ledger.of_same hst.actions hst.commands hst.emitted hst.win
  flushing := by rw [unflushed, hst.fsm, hst.win, hst.flushT]; exact h.flushing
  notFlushing := by rw [unflushed, hst.fsm, hst.win, hst.flushT]; exact h.notFlushing
  demands := by
    rw [resumeState, hst.fsm]
    exact h.demands.of_same hst.win hst.fsm hst.tbl hst.offset

/-- A step that only goes from one working state to another. -/
theorem Protocol.enter (h : Protocol s) (hne : s.fsm.state ≠ .flush) (hhost : t.host = s.host) (hwin : t.win = s.win)
    (hcfg : t.cfg = s.cfg) (hst : t.fsm.state = st) (hst' : st ≠ .flush) (hd : Demands t st) : Protocol t where
  ledger := h.ledger.of_same (fun _ ha => hhost ▸ ha) (by rw [hhost]) (by rw [hhost]) hwin
  flushing hf := absurd (hst.symm.trans hf) hst'
  notFlushing _ := by rw [unflushed, hwin, hcfg]; exact h.notFlushing hne
  demands := (resumeState_of_ne hst hst').symm ▸ hd

/-- A step that only enters FLUSH. -/
theorem Protocol.enter_flush (h : Protocol s) (hne : s.fsm.state ≠ .flush) (hpos : 0 < unflushed s) (hret : Resumable st)
    (hd : Demands s st) : Protocol { s with fsm.retR := st, fsm.state := .flush } where
  ledger := h.ledger.of_same (fun _ ha => ha) rfl rfl rfl
  flushing _ := ⟨hpos, (h.notFlushing hne).le, hret⟩
  notFlushing hf := absurd rfl hf
  demands := hd

theorem resumeState_flushCheck (hnext : next ≠ .flush) : resumeState (flushCheck next t) = next := by
  unfold flushCheck
  split
  · rfl
  · exact resumeState_of_ne rfl hnext

theorem Demands.flushCheck (h : Demands t st) : Demands (flushCheck next t) st := by
  unfold Machine.flushCheck
  split <;> exact h

/-- A step that appends a byte and ends in FlushCheck (41_history_window R510, R512, R513). -/
theorem Protocol.append_flushCheck {b : Byte} (h : Protocol s) (hne : s.fsm.state ≠ .flush) (hhost : t.host = s.host)
    (hwin : t.win = (append b s).win) (hcfg : t.cfg = s.cfg) (hnext : Resumable next) (hd : Demands t next) :
    Protocol (flushCheck next t) := by
  have hroom := h.notFlushing hne
  have hle := h.ledger.flushedLe
  have hgrown : unflushed (flushCheck next t) = unflushed s + 1 := by
    rw [unflushed, unflushed, flushCheck_win, hwin, append_win_size, append_win_flushed]
    omega
  have hT : (flushCheck next t).cfg.flushT = s.cfg.flushT := by rw [flushCheck_cfg, hcfg]
  have hfsm := flushCheck_fsm next t
  have hfull : t.win.size - t.win.flushed = unflushed s + 1 := by rw [← hgrown, unflushed, flushCheck_win]
  rw [hfull, hcfg] at hfsm
  refine ⟨h.ledger.append (by rw [flushCheck_host, hhost]) (by rw [flushCheck_win, hwin]), fun hst => ?_, fun hst => ?_,
    (resumeState_flushCheck hnext.ne_flush).symm ▸ hd.flushCheck⟩
  · rw [hgrown, hT]
    split at hfsm
    · exact ⟨by omega, by omega, hfsm ▸ hnext⟩
    · exact absurd ((congrArg FsmRegs.state hfsm).symm.trans hst) hnext.ne_flush
  · rw [hgrown, hT]
    split at hfsm
    · exact absurd (congrArg FsmRegs.state hfsm) hst
    · omega

theorem Protocol.takeFault (h : Protocol s) (hne : s.fsm.state ≠ .flush) (k : ErrKind) (o : Nat) :
    Protocol (takeFault k o s) :=
  h.enter hne rfl rfl rfl rfl nofun trivial

theorem holdInput_sameSession (s : State) : SameSession s (holdInput s) where
  actions a ha := by rwa [holdInput_host_actions] at ha
  commands := holdInput_host_commands s
  emitted := holdInput_host_emitted s
  win := holdInput_win s
  fsm := holdInput_fsm s
  tbl := holdInput_tbl s
  offset := holdInput_rd_offset s
  flushT := by rw [holdInput_cfg]

end

/-! ### Runs that neither fault nor are refused -/

/-- A run that answers something of which `P` holds, or holds, or raises. -/
inductive Proceeds {α : Type} (P : α → Prop) : Run α → Prop where
  | ok {a : α} (h : P a) : Proceeds P (.ok a)
  | hold : Proceeds P (.error .hold)
  | raise (k : ErrKind) (o : Nat) : Proceeds P (.error (.raise k o))

/-- A step that goes on, within the protocol. -/
def Advances (o : Host.Outcome State Fault Refusal) : Prop := ∃ t, o = .next t ∧ Protocol t

section
variable {α β : Type} {s : State}

theorem Proceeds.bind {P : α → Prop} {Q : β → Prop} {r : Run α} {k : α → Run β} (h : Proceeds P r)
    (hk : ∀ a, P a → Proceeds Q (k a)) : Proceeds Q (r >>= k) := by
  cases h with
  | ok h => exact hk _ h
  | hold => exact .hold
  | raise k o => exact .raise k o

theorem Proceeds.ite {P : α → Prop} {c : Prop} [Decidable c] {r r' : Run α} (h : c → Proceeds P r)
    (h' : ¬c → Proceeds P r') : Proceeds P (if c then r else r') := by
  split
  · exact h ‹_›
  · exact h' ‹_›

/-- How a step ends that does not begin in FLUSH. -/
theorem Proceeds.advances {r : Run State} (h : Proceeds Protocol r) (hs : Protocol s) (hne : s.fsm.state ≠ .flush) :
    Advances (settle s r) := by
  cases h with
  | ok h => exact ⟨_, rfl, h⟩
  | hold => exact ⟨_, rfl, hs.of_same (holdInput_sameSession s)⟩
  | raise k o => exact ⟨_, rfl, hs.takeFault hne k o⟩

theorem Proceeds.missing {P : α → Prop} (o : Nat) :
    Proceeds P (if s.rd.srcEnd then .error (.raise .endOfStream o) else .error .hold) :=
  .ite (fun _ => .raise _ o) fun _ => .hold

theorem takeField_proceeds (n : Nat) (s : State) :
    Proceeds (fun p => p.1 < 2 ^ n ∧ p.2 = s.advance n) (takeField n s) := by
  rw [takeField_eq]
  exact .ite (fun _ => .ok ⟨fieldValue_lt s _ n, rfl⟩) fun _ => .missing _

/-- The extra bits of a row give a value from its base up to below `base + 2^extra`. -/
theorem takeExtra_proceeds (row : Nat × Nat) (s : State) :
    Proceeds (fun p => (row.2 ≤ p.1 ∧ p.1 < row.2 + 2 ^ row.1) ∧ p.2 = s.advance row.1) (takeExtra row s) :=
  (takeField_proceeds row.1 s).bind fun _ ⟨hv, ht⟩ => .ok ⟨⟨by omega, by omega⟩, ht⟩

theorem align_proceeds (s : State) : Proceeds (fun _ => True) (align s) := by
  rw [align, discard_eq]
  exact .ite (fun _ => .ok trivial) fun _ => .missing _

theorem buildTable_proceeds (lens : List CodeLen) (s : State) :
    Proceeds (fun _ => (build lens).isSome) (buildTable lens s) := by
  unfold buildTable
  cases build lens with
  | some t => exact .ok rfl
  | none => exact .raise _ _

theorem decodeWith_proceeds (lens : List CodeLen) (s : State) :
    Proceeds (fun p => p.1 < lens.length) (decodeWith lens s) := by
  obtain ⟨sym, hsym, -, -, h⟩ | ⟨k, -, h⟩ | ⟨-, h⟩ := decodeWith_cases lens s <;> rw [h]
  · exact .ok hsym
  · exact .raise _ _
  · exact .hold

end

/-! ### The fetch -/

/-- Every word the FSM reads in the format is below this bound: a field's has its width, a symbol's is an index of its
length array. -/
def wordBound : Format → Nat
  | .clSym5 => Config.clAlphabet
  | .llSym9 => Config.llAlphabet
  | .dSym5 => Config.dAlphabet
  | f => 2 ^ f.bits

section
variable {s : State}

theorem Sound.clLens_length (h : Sound s) : s.clLens.length = Config.clAlphabet := by
  rw [State.clLens, List.length_map, h.clLen]

theorem Sound.llLens_length_le (h : Sound s) : s.llLens.length ≤ Config.llAlphabet := by
  rw [State.llLens, List.length_take, h.llLen]
  exact Nat.min_le_right _ _

theorem Sound.dLens_length_le (h : Sound s) : s.dLens.length ≤ Config.dAlphabet := by
  rw [State.dLens, List.length_take, h.dLen]
  exact Nat.min_le_right _ _

theorem readWord_proceeds (hs : Sound s) {f : Format} (hf : f ≠ .cmd4) :
    Proceeds (fun w => w < wordBound f) (readWord f s) := by
  cases f with
  | zlibHdr16 =>
    refine (takeField_proceeds 8 s).bind fun ⟨cmf, t⟩ ⟨h1, _⟩ => ?_
    refine (takeField_proceeds 8 t).bind fun ⟨flg, _⟩ ⟨h2, _⟩ => ?_
    exact .ok (by simp only [wordBound, Format.bits] at *; omega)
  | blockHdr3 =>
    refine (takeField_proceeds 1 s).bind fun ⟨bfinal, t⟩ ⟨h1, _⟩ => ?_
    refine (takeField_proceeds 2 t).bind fun ⟨btype, _⟩ ⟨h2, _⟩ => ?_
    exact .ok (by simp only [wordBound, Format.bits] at *; omega)
  | storedHdr32 =>
    refine (align_proceeds s).bind fun t _ => ?_
    refine (takeField_proceeds 16 t).bind fun ⟨len, t⟩ ⟨h1, _⟩ => ?_
    refine (takeField_proceeds 16 t).bind fun ⟨nlen, _⟩ ⟨h2, _⟩ => ?_
    exact .ok (by simp only [wordBound, Format.bits] at *; omega)
  | byte8 => exact (takeField_proceeds 8 s).bind fun _ ⟨h, _⟩ => .ok h
  | dynHdr14 =>
    refine (takeField_proceeds 5 s).bind fun ⟨hlit, t⟩ ⟨h1, _⟩ => ?_
    refine (takeField_proceeds 5 t).bind fun ⟨hdist, t⟩ ⟨h2, _⟩ => ?_
    refine (takeField_proceeds 4 t).bind fun ⟨hclen, _⟩ ⟨h3, _⟩ => ?_
    exact .ok (by simp only [wordBound, Format.bits] at *; omega)
  | cll3 => exact (takeField_proceeds 3 s).bind fun _ ⟨h, _⟩ => .ok h
  | clSym5 => exact (decodeWith_proceeds s.clLens s).bind fun _ h => .ok (Nat.lt_of_lt_of_eq h hs.clLens_length)
  | llSym9 => exact (decodeWith_proceeds s.llLens s).bind fun _ h => .ok (Nat.lt_of_lt_of_le h hs.llLens_length_le)
  | dSym5 => exact (decodeWith_proceeds s.dLens s).bind fun _ h => .ok (Nat.lt_of_lt_of_le h hs.dLens_length_le)
  | cmd4 => exact absurd rfl hf

/-- A state that reads an element is none of FLUSH, DONE and ERROR, and the element is no command. -/
theorem streamFormat_some {f : Format} (hf : streamFormat s = some f) :
    s.fsm.state ≠ .flush ∧ sessionOver s = false ∧ f ≠ .cmd4 := by
  have hno : ∀ st, s.fsm.state = st → st ≠ .flush ∧ st ≠ .done ∧ st ≠ .error := by
    rintro st hst
    refine ⟨?_, ?_, ?_⟩ <;> rintro rfl <;> rw [streamFormat, hst] at hf <;> cases hf
  obtain ⟨hflush, hdone, herror⟩ := hno _ rfl
  refine ⟨hflush, Bool.or_eq_false_iff.mpr ⟨beq_eq_false_iff_ne.mpr hdone, beq_eq_false_iff_ne.mpr herror⟩, ?_⟩
  rintro rfl
  unfold streamFormat at hf
  split at hf
  case h_7 => split at hf <;> cases hf
  all_goals cases hf

/-- A step that reads an element goes on if every word below the bound decodes to an instruction that does. -/
theorem coreStep_stream (hs : Session s) {f : Format} (hf : streamFormat s = some f)
    (hrun : ∀ w, w < wordBound f → ∃ i, decode f w s.port = .ok i ∧ Advances (exec i s)) : Advances (coreStep s) := by
  obtain ⟨hne, hover, hcmd⟩ := streamFormat_some hf
  have hnext := nextElement_stream hover hs.noCommands hf
  have hread := readWord_proceeds hs.toSound hcmd
  rw [fetch] at hnext
  unfold coreStep
  rw [hnext]
  generalize readWord f s = r at hread
  cases hread with
  | @ok w hw =>
    obtain ⟨i, hi, hexec⟩ := hrun w hw
    have hinstr : ((.ok w : Run Nat) >>= fun w => instrOf f w s) = .ok i := by
      show instrOf f w s = .ok i
      rw [instrOf, hi]
    rw [hinstr]
    exact hexec
  | hold => exact Proceeds.advances .hold hs.protocol hne
  | raise k o => exact Proceeds.advances (.raise k o) hs.protocol hne

/-- A step that reads no element is the internal step of its state. -/
theorem coreStep_of_no_element (hs : Session s) (hf : streamFormat s = none) (hlen : s.fsm.state ≠ .lenExtra)
    (hdist : s.fsm.state ≠ .distExtra) : coreStep s = settle s (internalStep s) := by
  have hnext : nextElement s = none := by
    unfold nextElement
    rw [if_neg (not_not_intro hs.noCommands), hf]
    split
    · rfl
    · split
      · exact absurd ‹_› hlen
      · exact absurd ‹_› hdist
      all_goals rfl
  rw [coreStep, hnext]

/-- The states that never read an element. -/
theorem coreStep_internal (hs : Session s) {st : FsmState} (hst : s.fsm.state = st)
    (hmem : st ∈ [FsmState.idle, .fixedSetup, .dynClBuild, .dynBuild, .copy, .flush, .blockEnd, .done, .error]) :
    coreStep s = settle s (internalStep s) := by
  have hf : streamFormat s = none := by
    simp only [List.mem_cons, List.not_mem_nil, or_false] at hmem
    obtain rfl | rfl | rfl | rfl | rfl | rfl | rfl | rfl | rfl := hmem <;> rw [streamFormat, hst]
  refine coreStep_of_no_element hs hf ?_ ?_ <;> rw [hst] <;> rintro rfl <;> revert hmem <;> decide

end

/-! ### Headers and STORED blocks -/

theorem toNat_pos {n : Nat} {x : BitVec n} (h : x ≠ 0) : 0 < x.toNat :=
  Nat.pos_of_ne_zero fun hz => h (BitVec.eq_of_toNat_eq (by simpa using hz))

section
variable {s : State}

theorem zhdr_advances (hs : Session s) (hst : s.fsm.state = .zhdr) : Advances (coreStep s) := by
  have hne := ne_flush_of_eq hst nofun
  refine coreStep_stream hs (by rw [streamFormat, hst]) fun w hw => ⟨_, decode_zlibHdr16 _ hw, ?_⟩
  refine Proceeds.advances ?_ hs.protocol hne
  exact .ite (fun _ => .raise _ _) fun _ => .ok (hs.protocol.enter hne rfl rfl rfl rfl nofun trivial)

theorem blockHeader_advances (h : Protocol s) (hne : s.fsm.state ≠ .flush) (f : BitVec 1) (ty : BitVec 2)
    {next : FsmState} (hnext : next ≠ .flush) (hd : Demands (blockHeader f ty next s) next) :
    Advances (settle s (.ok (blockHeader f ty next s))) :=
  Proceeds.advances (.ok (h.enter hne rfl rfl rfl rfl hnext hd)) h hne

theorem hdr_advances (hs : Session s) (hst : s.fsm.state = .hdr) : Advances (coreStep s) := by
  have hne := ne_flush_of_eq hst nofun
  refine coreStep_stream hs (by rw [streamFormat, hst]) fun w hw => ⟨_, decode_blockHdr3 _ hw, ?_⟩
  unfold decodeBlockHdr
  split_ifs
  · exact blockHeader_advances hs.protocol hne _ _ nofun trivial
  · exact blockHeader_advances hs.protocol hne _ _ nofun trivial
  · exact blockHeader_advances hs.protocol hne _ _ nofun trivial
  · exact Proceeds.advances (.raise _ _) hs.protocol hne

/-- The STORED body begins at a byte boundary (20_memory R221). -/
theorem storedHdr_advances (hs : Session s) (hst : s.fsm.state = .storedHdr) : Advances (coreStep s) := by
  have hne := ne_flush_of_eq hst nofun
  refine coreStep_stream hs (by rw [streamFormat, hst]) fun w hw => ⟨_, decode_storedHdr32 _ hw, ?_⟩
  refine Proceeds.advances (.ite (fun _ => .raise _ _) fun _ => .ok ?_) hs.protocol hne
  have halign := (alignPad_spec s).1
  by_cases hlen : BitVec.ofNat 16 w = 0
  · rw [if_pos hlen]
    exact hs.protocol.enter hne rfl rfl rfl rfl nofun trivial
  · rw [if_neg hlen]
    refine hs.protocol.enter hne rfl rfl rfl rfl nofun ⟨toNat_pos hlen, ?_⟩
    simp only [advance_rd_offset]
    omega

theorem storedCopy_advances (hs : Session s) (hst : s.fsm.state = .storedCopy) : Advances (coreStep s) := by
  have hne := ne_flush_of_eq hst nofun
  refine coreStep_stream hs (by rw [streamFormat, hst]) fun w hw => ⟨_, decode_byte8 _ hw, ?_⟩
  refine Proceeds.advances (.ok ?_) hs.protocol hne
  obtain ⟨-, halign⟩ := hs.stored (resumeState_of_ne hst nofun)
  by_cases hrem : s.fsm.storedRem - 1 = 0
  · rw [if_pos hrem]
    exact hs.protocol.append_flushCheck hne rfl rfl rfl (.inr (.inr (.inr rfl))) trivial
  · rw [if_neg hrem]
    refine hs.protocol.append_flushCheck hne rfl rfl rfl (.inl rfl) ⟨toNat_pos hrem, ?_⟩
    simp only [append_rd_offset, advance_rd_offset]
    omega

end

/-! ### The DYNAMIC header -/

section
variable {s : State}

theorem dynHdr_advances (hs : Session s) (hst : s.fsm.state = .dynHdr) : Advances (coreStep s) := by
  have hne := ne_flush_of_eq hst nofun
  refine coreStep_stream hs (by rw [streamFormat, hst]) fun w hw => ⟨_, decode_dynHdr14 _ hw, ?_⟩
  refine Proceeds.advances (.ok ?_) hs.protocol hne
  exact hs.protocol.enter hne rfl rfl rfl rfl nofun ⟨Nat.succ_pos _, Nat.zero_le _⟩

theorem order_getElem? {k : Nat} (hk : k < 19) : ∃ sym, order[k]? = some sym :=
  ⟨_, List.getElem?_eq_getElem hk⟩

theorem dynCll_advances (hs : Session s) (hst : s.fsm.state = .dynCll) : Advances (coreStep s) := by
  have hne := ne_flush_of_eq hst nofun
  refine coreStep_stream hs (by rw [streamFormat, hst]) fun w hw => ⟨_, decode_cll3 _ hw, ?_⟩
  have hidx := hs.cll hst
  have hseq := hs.sequence (.inl hst)
  have hclen := s.fsm.hclenR.isLt
  obtain ⟨sym, hsym⟩ := order_getElem? (k := s.fsm.cllIdx.toNat) (by omega)
  have hsucc : (s.fsm.cllIdx + 1).toNat = s.fsm.cllIdx.toNat + 1 := by
    rw [BitVec.toNat_add]
    exact Nat.mod_eq_of_lt (show s.fsm.cllIdx.toNat + 1 < 2 ^ 5 by omega)
  show Advances (execCll _ s)
  unfold execCll
  rw [hsym]
  refine Proceeds.advances (.ok ?_) hs.protocol hne
  by_cases hend : (s.fsm.cllIdx + 1).toNat = s.fsm.hclenR.toNat + 4
  · rw [if_pos hend]
    exact hs.protocol.enter hne rfl rfl rfl rfl nofun hseq
  · rw [if_neg hend]
    refine hs.protocol.enter hne rfl rfl rfl rfl nofun ⟨?_, hseq⟩
    show (s.fsm.cllIdx + 1).toNat < s.fsm.hclenR.toNat + 4
    omega

theorem dynClBuild_advances (hs : Session s) (hst : s.fsm.state = .dynClBuild) : Advances (coreStep s) := by
  have hne := ne_flush_of_eq hst nofun
  rw [coreStep_internal hs hst (by decide), internalStep, hst]
  refine Proceeds.advances ((buildTable_proceeds s.clLens s).bind fun _ htab => .ok ?_) hs.protocol hne
  exact hs.protocol.enter hne rfl rfl rfl rfl nofun ⟨hs.sequence (.inr (.inl hst)), htab⟩

/-- LENS_N does not wrap below `total` (44_code_lengths R825). -/
theorem toNat_lensN_add {r : Nat} (h : s.fsm.lensN.toNat + r ≤ totalLengths s) :
    (s.fsm.lensN + BitVec.ofNat 9 r).toNat = s.fsm.lensN.toNat + r := by
  have hcap := totalLengths_le s
  simp only [Config.lensCapacity] at hcap
  rw [BitVec.toNat_add, BitVec.toNat_ofNat, Nat.add_mod_mod, Nat.mod_eq_of_lt (by omega)]

/-- A repeat symbol, `n` bits on. -/
theorem repeat_proceeds (hs : Session s) (hst : s.fsm.state = .dynLens) (row : Nat × Nat) (v : State → CodeLen)
    (n : Nat) : Proceeds Protocol (takeExtra row (s.advance n) >>= fun p => repeatLength p.1 (v p.2) p.2) := by
  have hne := ne_flush_of_eq hst nofun
  refine (takeExtra_proceeds row (s.advance n)).bind fun ⟨r, t⟩ ⟨_, ht⟩ => ?_
  subst ht
  rw [advance_advance]
  obtain ⟨-, h⟩ | ⟨hle, h⟩ := repeatLength_cases r (v (s.advance (n + row.1))) (s.advance (n + row.1)) <;> rw [h]
  · exact .raise _ _
  · refine .ok (hs.protocol.enter hne rfl rfl rfl rfl nofun ⟨?_, hs.clTable hst⟩)
    exact (toNat_lensN_add (s := s) hle).trans_le hle

theorem dynLens_symbol_advances (hs : Session s) (hst : s.fsm.state = .dynLens)
    (hlt : s.fsm.lensN.toNat < totalLengths s) {w : Nat} (hw : w < 19) : Advances (exec (decodeClSym w) s) := by
  have hne := ne_flush_of_eq hst nofun
  have hcap := totalLengths_le s
  unfold decodeClSym
  split_ifs
  · show Advances (execClLit _ s)
    rw [execClLit, if_pos (by omega)]
    refine Proceeds.advances (.ok ?_) hs.protocol hne
    refine hs.protocol.enter hne rfl rfl rfl rfl nofun ⟨?_, hs.clTable hst⟩
    exact (toNat_lensN_add (s := s) (r := 1) hlt).trans_le hlt
  · exact Proceeds.advances (.ite (fun _ => .raise _ _) fun _ => repeat_proceeds hs hst (2, 3) previousLength _)
      hs.protocol hne
  · exact Proceeds.advances (repeat_proceeds hs hst (3, 3) (fun _ => 0) _) hs.protocol hne
  · exact Proceeds.advances (repeat_proceeds hs hst (7, 11) (fun _ => 0) _) hs.protocol hne
  all_goals omega

theorem dynLens_advances (hs : Session s) (hst : s.fsm.state = .dynLens) : Advances (coreStep s) := by
  have hne := ne_flush_of_eq hst nofun
  have hle := hs.sequence (.inr (.inr hst))
  by_cases hend : s.fsm.lensN.toNat = totalLengths s
  · have hf : streamFormat s = none := by simp only [streamFormat, hst, if_pos hend]
    rw [coreStep_of_no_element hs hf (by rw [hst]; nofun) (by rw [hst]; nofun), internalStep, hst]
    exact Proceeds.advances (.ok (hs.protocol.enter hne rfl rfl rfl rfl nofun trivial)) hs.protocol hne
  · have hf : streamFormat s = some .clSym5 := by simp only [streamFormat, hst, if_neg hend]
    refine coreStep_stream hs hf fun w hw => ?_
    have hw : w < 19 := hw
    exact ⟨_, decode_clSym5 _ (by omega), dynLens_symbol_advances hs hst (by omega) hw⟩

/-- FIXED_SETUP and DYN_BUILD enter a body only with both tables built. -/
theorem setup_proceeds (hs : Protocol s) (hne : s.fsm.state ≠ .flush) {t : State} (hhost : t.host = s.host)
    (hwin : t.win = s.win) (hcfg : t.cfg = s.cfg) : Proceeds Protocol
      (buildTable t.llLens t >>= fun _ => buildTable t.dLens t >>= fun _ => .ok { t with fsm.state := .bodySym }) :=
  (buildTable_proceeds _ t).bind fun _ hll => (buildTable_proceeds _ t).bind fun _ hd =>
    .ok (hs.enter hne hhost hwin hcfg rfl nofun ⟨hll, hd⟩)

theorem fixedSetup_advances (hs : Session s) (hst : s.fsm.state = .fixedSetup) : Advances (coreStep s) := by
  have hne := ne_flush_of_eq hst nofun
  rw [coreStep_internal hs hst (by decide), internalStep, hst]
  exact Proceeds.advances (setup_proceeds hs.protocol hne rfl rfl rfl) hs.protocol hne

theorem dynBuild_advances (hs : Session s) (hst : s.fsm.state = .dynBuild) : Advances (coreStep s) := by
  have hne := ne_flush_of_eq hst nofun
  rw [coreStep_internal hs hst (by decide), internalStep, hst]
  exact Proceeds.advances (setup_proceeds (t := splitLengths s) hs.protocol hne rfl rfl rfl) hs.protocol hne

end

/-! ### The body -/

/-- The words of the literal/length alphabet (30_encoding R341). -/
theorem decode_llSym9_cases {w : Nat} (hw : w < 288) (port : Operand) :
    (∃ b, decode .llSym9 w port = .ok (.lit b)) ∨ decode .llSym9 w port = .ok .eob ∨
    (∃ k, ∃ hk : k < 29, w = 257 + k ∧ decode .llSym9 w port = .ok (lengthInstrs[k]'hk)) ∨
    ∃ low, decode .llSym9 w port = .ok (.llInvalid low) := by
  by_cases hlen : 257 ≤ w ∧ w < 286
  · obtain ⟨k, rfl⟩ := Nat.exists_eq_add_of_le hlen.1
    have hk : k < 29 := by omega
    exact .inr (.inr (.inl ⟨k, hk, rfl, decode_lengthSymbol hk port⟩))
  · rw [decode_llSym9 port (by omega)]
    unfold decodeLlSym
    split_ifs with hlit heob
    · exact .inl ⟨_, rfl⟩
    · exact .inr (.inl rfl)
    · rw [List.getElem?_eq_none (by rw [lengthInstrs_length]; omega)]
      exact .inr (.inr (.inr ⟨_, rfl⟩))

/-- The words of the distance alphabet (30_encoding R342). -/
theorem decode_dSym5_cases {w : Nat} (hw : w < 32) (port : Operand) :
    (∃ hk : w < 30, decode .dSym5 w port = .ok (distInstrs[w]'hk)) ∨
    ∃ low, decode .dSym5 w port = .ok (.dInvalid low) := by
  by_cases hk : w < 30
  · exact .inl ⟨hk, decode_distSymbol hk port⟩
  · rw [decode_dSym5 port hw, decodeDSym, List.getElem?_eq_none (Nat.not_lt.mp hk)]
    exact .inr ⟨_, rfl⟩

/-- Every length of the table is 3 to 258 (10_state R129). -/
theorem lengthRow_bounds : ∀ k < 29, 3 ≤ (lengthRow (257 + k)).2 ∧
    (lengthRow (257 + k)).2 + 2 ^ (lengthRow (257 + k)).1 ≤ 259 := by decide

/-- Every distance of the table is 1 to 32768. -/
theorem distRow_bounds : ∀ k < 30, 1 ≤ (distRow k).2 ∧ (distRow k).2 + 2 ^ (distRow k).1 ≤ 32769 := by decide

section
variable {s : State}

theorem bodySym_advances (hs : Session s) (hst : s.fsm.state = .bodySym) : Advances (coreStep s) := by
  have hne := ne_flush_of_eq hst nofun
  have htab : BodyTables s := hs.bodyTables (.inl (resumeState_of_ne hst nofun))
  refine coreStep_stream hs (by rw [streamFormat, hst]) fun w hw => ?_
  obtain ⟨b, hi⟩ | hi | ⟨k, hk, -, hi⟩ | ⟨low, hi⟩ := decode_llSym9_cases hw s.port <;> refine ⟨_, hi, ?_⟩
  · refine Proceeds.advances (.ok ?_) hs.protocol hne
    exact hs.protocol.append_flushCheck hne rfl rfl rfl (.inr (.inl rfl)) htab
  · refine Proceeds.advances (.ok ?_) hs.protocol hne
    exact hs.protocol.enter hne rfl rfl rfl rfl nofun trivial
  · rw [exec_lengthInstrs hk, lengthMeaning, if_neg (by rw [hst]; nofun)]
    refine Proceeds.advances (.ok (hs.protocol.enter hne rfl rfl rfl rfl nofun ⟨htab, ?_⟩)) hs.protocol hne
    show 257 ≤ (BitVec.ofNat 9 (257 + k)).toNat ∧ (BitVec.ofNat 9 (257 + k)).toNat ≤ 285
    rw [BitVec.toNat_ofNat, Nat.mod_eq_of_lt (by omega)]
    omega
  · exact Proceeds.advances (.raise _ _) hs.protocol hne

theorem readLength_proceeds (hs : Session s) (hst : s.fsm.state = .lenExtra) {k : Nat} (hk : k < 29) :
    Proceeds Protocol (readLength (257 + k) s) := by
  have hne := ne_flush_of_eq hst nofun
  have htab : BodyTables s := hs.bodyTables (.inr (.inl (resumeState_of_ne hst nofun)))
  obtain ⟨hlo, hhi⟩ := lengthRow_bounds k hk
  unfold readLength
  generalize lengthRow (257 + k) = row at hlo hhi ⊢
  refine (takeExtra_proceeds _ s).bind fun ⟨len, t⟩ ⟨hlen, ht⟩ => ?_
  subst ht
  refine .ok (hs.protocol.enter hne rfl rfl rfl rfl nofun ⟨htab, ?_⟩)
  show 3 ≤ (BitVec.ofNat 9 len).toNat ∧ (BitVec.ofNat 9 len).toNat ≤ 258
  rw [BitVec.toNat_ofNat, Nat.mod_eq_of_lt (by omega)]
  omega

theorem nextElement_lenExtra (hc : s.host.commands = []) (hst : s.fsm.state = .lenExtra) :
    nextElement s = some (fetchLength s) := by
  rw [nextElement, if_neg (by simp [sessionOver, hst]), if_neg (not_not_intro hc), hst]

theorem nextElement_distExtra (hc : s.host.commands = []) (hst : s.fsm.state = .distExtra) :
    nextElement s = some (fetchDistance s) := by
  rw [nextElement, if_neg (by simp [sessionOver, hst]), if_neg (not_not_intro hc), hst]

theorem lenExtra_advances (hs : Session s) (hst : s.fsm.state = .lenExtra) : Advances (coreStep s) := by
  have hsym := hs.lengthSym hst
  obtain ⟨k, hk⟩ := Nat.exists_eq_add_of_le hsym.1
  have hk29 : k < 29 := by omega
  have hnext : nextElement s = some (.ok (lengthInstrs[k]'hk29)) := by
    rw [nextElement_lenExtra hs.noCommands hst, fetchLength, if_pos hsym, instrOf, hk, decode_lengthSymbol hk29]
  rw [coreStep, hnext]
  show Advances (exec _ s)
  rw [exec_lengthInstrs, lengthMeaning, if_pos hst]
  exact (readLength_proceeds hs hst hk29).advances hs.protocol (ne_flush_of_eq hst nofun)

theorem distSym_advances (hs : Session s) (hst : s.fsm.state = .distSym) : Advances (coreStep s) := by
  have hne := ne_flush_of_eq hst nofun
  have htab : BodyTables s := hs.bodyTables (.inr (.inr (.inl (resumeState_of_ne hst nofun))))
  refine coreStep_stream hs (by rw [streamFormat, hst]) fun w hw => ?_
  obtain ⟨hk, hi⟩ | ⟨low, hi⟩ := decode_dSym5_cases hw s.port <;> refine ⟨_, hi, ?_⟩
  · rw [exec_distInstrs hk, distMeaning, if_neg (by rw [hst]; nofun)]
    refine Proceeds.advances (.ok ?_) hs.protocol hne
    refine hs.protocol.enter hne rfl rfl rfl rfl nofun ⟨htab, hs.length (.inl hst), ?_⟩
    show (BitVec.ofNat 9 w).toNat ≤ 29
    rw [BitVec.toNat_ofNat, Nat.mod_eq_of_lt (by omega)]
    omega
  · exact Proceeds.advances (.raise _ _) hs.protocol hne

/-- The distance check (45_body_symbols R980) is what COPY relies on. -/
theorem readDistance_proceeds (hs : Session s) (hst : s.fsm.state = .distExtra) {k : Nat} (hk : k < 30) :
    Proceeds Protocol (readDistance k s) := by
  have hne := ne_flush_of_eq hst nofun
  have htab : BodyTables s := hs.bodyTables (.inr (.inr (.inr (.inl (resumeState_of_ne hst nofun)))))
  have hlen := hs.length (.inr hst)
  obtain ⟨hlo, hhi⟩ := distRow_bounds k hk
  unfold readDistance
  generalize distRow k = row at hlo hhi ⊢
  refine (takeExtra_proceeds _ s).bind fun ⟨dist, t⟩ ⟨hdist, ht⟩ => ?_
  subst ht
  refine .ite (fun _ => .raise _ _) fun hsize => .ok ?_
  have hreg : (BitVec.ofNat 16 dist).toNat = dist := by rw [BitVec.toNat_ofNat, Nat.mod_eq_of_lt (by omega)]
  have hsize : dist ≤ s.win.size := Nat.not_lt.mp hsize
  refine hs.protocol.enter hne rfl rfl rfl rfl nofun ⟨htab, ?_⟩
  show 1 ≤ s.fsm.lengthR.toNat ∧ s.fsm.lengthR.toNat ≤ 258 ∧ 1 ≤ (BitVec.ofNat 16 dist).toNat ∧
    (BitVec.ofNat 16 dist).toNat ≤ Config.windowSize ∧ (BitVec.ofNat 16 dist).toNat ≤ s.win.size
  rw [hreg]
  simp only [Config.windowSize]
  omega

theorem distExtra_advances (hs : Session s) (hst : s.fsm.state = .distExtra) : Advances (coreStep s) := by
  have hsym := hs.distSym hst
  have hk : s.fsm.symR.toNat < 30 := by omega
  have hnext : nextElement s = some (.ok (distInstrs[s.fsm.symR.toNat]'hk)) := by
    rw [nextElement_distExtra hs.noCommands hst, fetchDistance, if_pos hsym, instrOf, decode_distSymbol hk]
  rw [coreStep, hnext]
  show Advances (exec _ s)
  rw [exec_distInstrs, distMeaning, if_pos hst]
  exact (readDistance_proceeds hs hst hk).advances hs.protocol (ne_flush_of_eq hst nofun)

theorem copy_advances (hs : Session s) (hst : s.fsm.state = .copy) : Advances (coreStep s) := by
  have hne := ne_flush_of_eq hst nofun
  have hR := resumeState_of_ne hst nofun
  have htab : BodyTables s := hs.bodyTables (.inr (.inr (.inr (.inr hR))))
  obtain ⟨hrem, hmax, hd1, hdmax, hdsize⟩ := hs.copying hR
  obtain ⟨b, hb⟩ := hs.toSound.backref hd1 hdmax hdsize
  rw [coreStep_internal hs hst (by decide), internalStep, hst]
  show Advances (settle s (copyByte s))
  rw [copyByte, appendBackref_of_read hd1 hdmax hdsize hb]
  refine Proceeds.advances (.ok ?_) hs.protocol hne
  have hpred : (s.fsm.copyRem - 1).toNat = s.fsm.copyRem.toNat - 1 := by
    rw [BitVec.toNat_sub_of_le (by rw [BitVec.le_def]; simpa using hrem)]
    rfl
  by_cases hlast : s.fsm.copyRem - 1 = 0
  · rw [if_pos hlast]
    exact hs.protocol.append_flushCheck hne rfl rfl rfl (.inr (.inl rfl)) htab
  · rw [if_neg hlast]
    have hpos := toNat_pos hlast
    refine hs.protocol.append_flushCheck hne rfl rfl rfl (.inr (.inr (.inl rfl)))
      ⟨htab, hpos, ?_, hd1, hdmax, Nat.le_succ_of_le hdsize⟩
    show (s.fsm.copyRem - 1).toNat ≤ 258
    omega

end

/-! ### FLUSH and BLOCK_END -/

section
variable {s : State}

/-- FLUSH's step once the sink accepts the byte `b` (43_block_fsm R741). -/
def handOver (b : Byte) (s : State) : State :=
  { s with
    win.flushed := s.win.flushed + 1,
    host.emitted := s.host.emitted ++ [⟨b, s.win.flushed + 1 == s.win.size⟩],
    fsm.state := if s.win.flushed + 1 = s.win.size then s.fsm.retR else .flush }

theorem emitByte_of_read {b : Byte} (hb : s.win.mem.read (s.win.flushed % Config.windowSize) = some b) :
    emitByte s = .ok (handOver b s) := by
  rw [emitByte, winByte_ok.mpr hb]
  rfl

/-- The byte handed over is the one of its position (41_history_window R514). -/
theorem Ledger.handOver {b : Byte} (h : Ledger s) (hlt : s.win.flushed < s.win.size)
    (hb : s.win.mem.read (s.win.flushed % Config.windowSize) = some b) : Ledger (handOver b s) where
  noCommands := h.noCommands
  noIssue := h.noIssue
  flushedLe := hlt
  emittedCount := by
    show (s.host.emitted ++ [_]).length = s.win.flushed + 1
    rw [List.length_append, h.emittedCount]
    rfl
  emittedBytes j (hj : j < s.win.flushed + 1) hw := by
    show (s.host.emitted ++ [_])[j]?.map OutByte.byte = s.win.mem.read (j % Config.windowSize)
    have hcount := h.emittedCount
    by_cases hlast : j = s.win.flushed
    · rw [hlast, List.getElem?_append_right hcount.le, hcount, Nat.sub_self, hb]
      rfl
    · rw [List.getElem?_append_left (by omega)]
      exact h.emittedBytes j (by omega) hw

theorem Demands.handOver {b : Byte} {st : FsmState} (h : Demands s st) (hst : Resumable st) :
    Demands (handOver b s) st := by
  obtain rfl | rfl | rfl | rfl := hst <;> exact h

theorem Protocol.handOver {b : Byte} (h : Protocol s) (hst : s.fsm.state = .flush)
    (hb : s.win.mem.read (s.win.flushed % Config.windowSize) = some b) : Protocol (handOver b s) := by
  obtain ⟨hpos, hle, hret⟩ := h.flushing hst
  unfold unflushed at hpos hle
  have hledger := h.ledger.handOver (by omega) hb
  have hdem := (h.demands_resume (resumeState_flush hst)).handOver (b := b) hret
  have hleft : unflushed (Machine.handOver b s) = s.win.size - (s.win.flushed + 1) := rfl
  have hT : (Machine.handOver b s).cfg.flushT = s.cfg.flushT := rfl
  by_cases hlast : s.win.flushed + 1 = s.win.size
  · have hst' : (Machine.handOver b s).fsm.state = s.fsm.retR := if_pos hlast
    refine ⟨hledger, fun hf => absurd (hst'.symm.trans hf) hret.ne_flush, fun _ => ?_, ?_⟩
    · rw [hleft, hT]
      omega
    · rw [resumeState_of_ne hst' hret.ne_flush]
      exact hdem
  · have hst' : (Machine.handOver b s).fsm.state = .flush := if_neg hlast
    refine ⟨hledger, fun _ => ⟨?_, ?_, hret⟩, fun hf => absurd hst' hf, ?_⟩
    · rw [hleft]
      omega
    · rw [hleft, hT]
      omega
    · rw [resumeState_flush hst']
      exact hdem

theorem flush_advances (hs : Session s) (hst : s.fsm.state = .flush) : Advances (coreStep s) := by
  rw [coreStep_internal hs hst (by decide), internalStep, hst]
  show Advances (settle s (flushByte s))
  unfold flushByte
  split
  · obtain ⟨hpos, hle, -⟩ := hs.flushing hst
    have hT := hs.threshold
    unfold unflushed at hpos hle
    obtain ⟨b, hb⟩ := hs.window s.win.flushed (by omega) (by omega)
    rw [emitByte_of_read hb]
    exact ⟨_, rfl, hs.protocol.handOver hst hb⟩
  · exact ⟨_, rfl, hs.protocol⟩

theorem blockEnd_advances (hs : Session s) (hst : s.fsm.state = .blockEnd) : Advances (coreStep s) := by
  have hne := ne_flush_of_eq hst nofun
  have hle := hs.flushedLe
  rw [coreStep_internal hs hst (by decide), internalStep, hst]
  refine Proceeds.advances ?_ hs.protocol hne
  refine .ite (fun hpos => .ok ?_) fun hempty => .ite (fun _ => .ok ?_) fun _ => .ok ?_
  · exact hs.protocol.enter_flush hne hpos (.inr (.inr (.inr rfl))) trivial
  · refine hs.protocol.enter hne rfl rfl rfl rfl nofun ?_
    show s.win.flushed = s.win.size
    omega
  · exact hs.protocol.enter hne rfl rfl rfl rfl nofun trivial

/-- No step runs in IDLE, DONE and ERROR. -/
theorem resting_advances (hs : Session s) (hst : s.fsm.state = .idle ∨ s.fsm.state = .done ∨ s.fsm.state = .error) :
    Advances (coreStep s) := by
  obtain hst | hst | hst := hst <;>
    rw [coreStep_internal hs hst (by decide), internalStep, hst] <;>
    exact ⟨_, rfl, hs.protocol⟩

end

/-! ### The step of the core and the actions of the host -/

section
variable {s : State}

theorem coreStep_advances (hs : Session s) : Advances (coreStep s) := by
  cases hst : s.fsm.state with
  | idle => exact resting_advances hs (.inl hst)
  | zhdr => exact zhdr_advances hs hst
  | hdr => exact hdr_advances hs hst
  | storedHdr => exact storedHdr_advances hs hst
  | storedCopy => exact storedCopy_advances hs hst
  | fixedSetup => exact fixedSetup_advances hs hst
  | dynHdr => exact dynHdr_advances hs hst
  | dynCll => exact dynCll_advances hs hst
  | dynClBuild => exact dynClBuild_advances hs hst
  | dynLens => exact dynLens_advances hs hst
  | dynBuild => exact dynBuild_advances hs hst
  | bodySym => exact bodySym_advances hs hst
  | lenExtra => exact lenExtra_advances hs hst
  | distSym => exact distSym_advances hs hst
  | distExtra => exact distExtra_advances hs hst
  | copy => exact copy_advances hs hst
  | flush => exact flush_advances hs hst
  | blockEnd => exact blockEnd_advances hs hst
  | done => exact resting_advances hs (.inr (.inl hst))
  | error => exact resting_advances hs (.inr (.inr hst))

theorem coreStep_session (hs : Session s) : ∃ t, coreStep s = .next t ∧ Session t := by
  obtain ⟨t, ht, hp⟩ := coreStep_advances hs
  exact ⟨t, ht, hp.session ((coreStep_changes s t ht).sound hs.toSound)⟩

theorem Protocol.writeZlib (h : Protocol s) (b : Bool) : Protocol (writeZlib b s) := by
  unfold Machine.writeZlib
  split
  · exact h.of_same ⟨fun _ ha => ha, rfl, rfl, rfl, rfl, rfl, rfl, rfl⟩
  · exact h

theorem Protocol.startSession (h : Protocol s) : Protocol (startSession s) := by
  unfold Machine.startSession
  split
  · rename_i hst
    have hne := ne_flush_of_eq hst nofun
    cases s.cfg.zlib with
    | true => exact h.enter hne rfl rfl rfl rfl nofun trivial
    | false => exact h.enter hne rfl rfl rfl rfl nofun trivial
  · exact h

theorem Protocol.writeCtrl (h : Protocol s) (v : BitVec 64) : Protocol (writeCtrl v s) := by
  unfold Machine.writeCtrl
  dsimp only
  split
  · exact (h.writeZlib _).startSession
  · exact h.writeZlib _

/-- CFG_T can be written in IDLE only, where nothing has been produced, so the open chunk stays below it. -/
theorem Protocol.writeCfgT (h : Protocol s) (v : BitVec 64) : Protocol (writeCfgT v s) := by
  unfold Machine.writeCfgT
  dsimp only
  split
  · rename_i hw
    obtain ⟨hst, hv, -⟩ := hw
    have hsize : s.win.size = 0 := h.demands_at hst nofun
    refine ⟨h.ledger.of_same (fun _ ha => ha) rfl rfl rfl, fun hf => ?_, fun _ => ?_, h.demands.of_same rfl rfl rfl rfl⟩
    · exact absurd (hst.symm.trans hf) nofun
    · rw [unflushed, hsize, Nat.zero_sub]
      exact hv
  · exact h

theorem Protocol.deliverByte (h : Protocol s) (b : Byte) : Protocol (deliverByte b s) := by
  obtain ⟨-, c, cs, -, ht⟩ | ⟨-, ht⟩ := deliverByte_cases b s <;> rw [ht] <;>
    exact h.of_same ⟨fun _ ha => ha, rfl, rfl, rfl, rfl, rfl, rfl, rfl⟩

theorem Protocol.applyReset (h : Protocol s) : Protocol (applyReset s) where
  ledger := ⟨rfl, h.ledger.noIssue, le_refl 0, rfl, fun _ hj => absurd hj (Nat.not_lt_zero _)⟩
  flushing := nofun
  notFlushing _ := (by decide : 0 < Config.flushThreshold.toNat)
  demands := rfl

theorem hostAction_session (hs : Session s) {a : HostAction} (ha : ∀ c, a ≠ .issue c) : Session (hostAction a s) := by
  have hp := hs.protocol
  by_cases hreset : a = .reset
  · subst hreset
    exact hp.applyReset.session (applyReset_sound s)
  · refine Protocol.session ?_ ((hostAction_change a s hreset).sound hs.toSound)
    cases a with
    | write r v =>
      cases r with
      | ctrl => exact hp.writeCtrl v
      | cfgT => exact hp.writeCfgT v
      | status | errOffset | inBits | outBytes => exact hp
    | setZlib b => exact hp.writeZlib b
    | start => exact hp.startSession
    | reset => exact absurd rfl hreset
    | deliver b => exact hp.deliverByte b
    | endInput | ready _ => exact hp.of_same ⟨fun _ ha => ha, rfl, rfl, rfl, rfl, rfl, rfl, rfl⟩
    | issue c => exact absurd rfl (ha c)
    | pass => exact hp

theorem Session.drop_actions (hs : Session s) {rest : List HostAction} (hsub : ∀ a ∈ rest, a ∈ s.host.actions) :
    Session { s with host.actions := rest } := by
  refine Protocol.session (hs.protocol.of_same ⟨hsub, rfl, rfl, rfl, rfl, rfl, rfl, rfl⟩) ?_
  exact { hs.toSound with }

/-- `step_cases` with what becomes of the host's actions. -/
theorem step_cases_actions (s : State) :
    (∃ rest, (∀ a ∈ rest, a ∈ s.host.actions) ∧ step s = coreStep { s with host.actions := rest }) ∨
    (∃ a rest, s.host.actions = a :: rest ∧ step s = .next (hostAction a { s with host.actions := rest })) := by
  unfold step
  split
  · exact .inl ⟨s.host.actions, fun _ ha => ha, rfl⟩
  · rename_i rest hacts
    exact .inl ⟨rest, fun a ha => hacts ▸ List.mem_cons_of_mem _ ha, rfl⟩
  · exact .inr ⟨_, _, ‹_›, rfl⟩

end

/-- Settles O57: the step is the core's, which goes on in every FSM state, or an action of the host, none of
which issues a command. -/
theorem everyStepKeepsSession : Obligations.EveryStepKeepsSession := by
  intro s hs
  obtain ⟨rest, hsub, hstep⟩ | ⟨a, rest, hacts, hstep⟩ := step_cases_actions s <;> rw [hstep]
  · exact coreStep_session (hs.drop_actions hsub)
  · have hsub : ∀ b ∈ rest, b ∈ s.host.actions := fun b hb => hacts ▸ List.mem_cons_of_mem _ hb
    have hissue : ∀ c, a ≠ .issue c := by
      rintro c rfl
      exact hs.noIssue c (hacts ▸ List.mem_cons_self)
    exact ⟨_, rfl, hostAction_session (hs.drop_actions hsub) hissue⟩

end Sys2Proof.Machine

namespace Sys2Proof.Machine

/-! ## Input delivered early

A step is compared with the same step after the host has delivered more (`supplied`). Whatever the first finds in the
buffer the second finds too, so both end alike unless the first holds. `FedAlike` says so of two runs, `StepFedAlike` of
two outcomes of a step. That the first does not hold is read off `in_req`, which is a run of the same step with another
host; so `supplied` leaves open what the host has left to give as well. -/

/-- The host has delivered `l` early, and has `source` and `ends` left to give. -/
def supplied (l source : List Byte) (ends : Bool) (s : State) : State :=
  { refilled l s with host.source := source, host.sourceEnds := ends }

/-- The buffer holds whole bytes, and the input has not ended. -/
structure Filling (s : State) : Prop where
  whole : s.rd.readbits = 8 * s.rd.inbuf.length
  notEnded : s.rd.srcEnd = false

/-- The first run holds, or the second ends as it does, its answer changed by `g`. -/
inductive FedAlike {α : Type} (P : α → Prop) (g : α → α) : (r r' : Run α) → Prop where
  | hold (r' : Run α) : FedAlike P g (.error .hold) r'
  | ok {a : α} (h : P a) : FedAlike P g (.ok a) (.ok (g a))
  | stop (e : Stop) : FedAlike P g (.error e) (.error e)

/-- Two runs that answer the same. -/
abbrev LookAlike {α : Type} : (r r' : Run α) → Prop := FedAlike (fun _ => True) id

/-- Two reads that answer a value and the state after them. -/
abbrev TakeAlike (l source : List Byte) (ends : Bool) : (r r' : Run (Nat × State)) → Prop :=
  FedAlike (fun p => Filling p.2) (Prod.map id (supplied l source ends))

/-- Two runs that answer the state after them. -/
abbrev RunAlike (l source : List Byte) (ends : Bool) : (r r' : Run State) → Prop :=
  FedAlike (fun _ => True) (supplied l source ends)

/-- An outcome with its next state changed by `g`. -/
def mapNext (g : State → State) : Host.Outcome State Fault Refusal → Host.Outcome State Fault Refusal
  | .next t => .next (g t)
  | .fault f => .fault f
  | .refused r => .refused r

/-- Neither step fetches, or both do, and fetch the same. -/
inductive FetchAlike : (o o' : Option (Run Instr)) → Prop where
  | internal : FetchAlike none none
  | fetched {r r' : Run Instr} (h : LookAlike r r') : FetchAlike (some r) (some r')

/-- The first step, from `s`, holds, or the second ends as it does, its next state changed by `g`. -/
inductive StepFedAlike (g : State → State) (s : State) : (o o' : Host.Outcome State Fault Refusal) → Prop where
  | hold (o' : Host.Outcome State Fault Refusal) : StepFedAlike g s (.next (holdInput s)) o'
  | same (o : Host.Outcome State Fault Refusal) : StepFedAlike g s o (mapNext g o)

/-! ### Rules -/

section
variable {α β : Type} {s : State} {l source : List Byte} {ends : Bool}

theorem FedAlike.bind {P : α → Prop} {Q : β → Prop} {g : α → α} {g' : β → β} {r r' : Run α} {k k' : α → Run β}
    (h : FedAlike P g r r') (hk : ∀ a, P a → FedAlike Q g' (k a) (k' (g a))) :
    FedAlike Q g' (r >>= k) (r' >>= k') := by
  cases h with
  | hold => exact .hold _
  | ok h => exact hk _ h
  | stop e => exact .stop e

theorem FedAlike.ite {P : α → Prop} {g : α → α} {c : Prop} [Decidable c] {q q' r r' : Run α} (h : FedAlike P g q q')
    (h' : FedAlike P g r r') : FedAlike P g (if c then q else r) (if c then q' else r') := by
  split
  · exact h
  · exact h'

theorem FetchAlike.ite {c : Prop} [Decidable c] {q q' r r' : Option (Run Instr)} (h : FetchAlike q q')
    (h' : FetchAlike r r') : FetchAlike (if c then q else r) (if c then q' else r') := by
  split
  · exact h
  · exact h'

theorem FedAlike.checked {P : State → Prop} {g : State → State} {b : Bool} {r r' : Run State} (h : FedAlike P g r r') :
    FedAlike P g (checked b r) (checked b r') :=
  .ite h (.stop _)

/-- A run that does not depend on what the host has delivered. -/
theorem FedAlike.same (r : Run α) : LookAlike r r := by
  cases r with
  | ok a => exact .ok trivial
  | error e => exact .stop e

/-- A read of the input up to bit `n`: where its bits are there they stay there, and where they are missing the run
holds. -/
theorem FedAlike.read {P : α → Prop} {g : α → α} {n m more : Nat} {ended : Bool} {a b : α} {e e' : Run α}
    (hend : ended = false) (h : n ≤ m → P a ∧ b = g a) :
    FedAlike P g (if n ≤ m then .ok a else if ended then e else .error .hold)
      (if n ≤ m + more then .ok b else if ended then e' else .error .hold) := by
  by_cases hn : n ≤ m
  · obtain ⟨hP, rfl⟩ := h hn
    rw [if_pos hn, if_pos (by omega)]
    exact .ok hP
  · rw [if_neg hn, hend]
    exact .hold _

theorem settle_fedAlike {r r' : Run State} (h : RunAlike l source ends r r') :
    StepFedAlike (supplied l source ends) s (settle s r) (settle (supplied l source ends s) r') := by
  cases h with
  | hold => exact .hold _
  | @ok t _ => exact .same (.next t)
  | stop e =>
    cases e with
    | hold => exact .hold _
    | raise k o => exact .same (.next (takeFault k o s))
    | fault f => exact .same (.fault f)
    | refuse r => exact .same (.refused r)

theorem settleCommand_fedAlike {r r' : Run State} (h : RunAlike l source ends r r') :
    StepFedAlike (supplied l source ends) s (settleCommand s r) (settleCommand (supplied l source ends s) r') := by
  cases h with
  | hold => exact .hold _
  | @ok t _ => exact .same (.next t)
  | stop e =>
    cases e with
    | hold => exact .hold _
    | raise k o => exact .same (.next (takeFault k o (popCommand s)))
    | fault f => exact .same (.fault f)
    | refuse r => exact .same (.refused r)

end

/-! ### The operations -/

section
variable {s : State} (hs : Filling s) (l source : List Byte) (ends : Bool)
include hs

theorem Filling.advance (n : Nat) : Filling (s.advance n) := ⟨hs.whole, hs.notEnded⟩

/-- A buffered bit stays what it is. -/
theorem supplied_inBit {k : Nat} (hk : k < s.rd.readbits) : (supplied l source ends s).inBit k = s.inBit k := by
  have hbyte : k / 8 < s.rd.inbuf.length := by have := hs.whole; omega
  show ((s.rd.inbuf ++ l).getD (k / 8) 0).getLsbD (k % 8) = _
  rw [List.getD_append _ _ _ _ hbyte]
  rfl

theorem supplied_fieldValue {k n : Nat} (h : k + n ≤ s.rd.readbits) :
    fieldValue (supplied l source ends s) k n = fieldValue s k n := by
  induction n generalizing k with
  | zero => rfl
  | succ n ih => rw [fieldValue, fieldValue, ih (by omega), supplied_inBit hs l source ends (by omega)]

theorem supplied_codeValue {k n : Nat} (h : k + n ≤ s.rd.readbits) :
    codeValue (supplied l source ends s) k n = codeValue s k n := by
  induction n with
  | zero => rfl
  | succ n ih => rw [codeValue, codeValue, ih (by omega), supplied_inBit hs l source ends (by omega)]

theorem supplied_bitsAt {k n : Nat} (h : k + n ≤ s.rd.readbits) :
    bitsAt (supplied l source ends s) k n = bitsAt s k n :=
  List.map_congr_left fun i hi => supplied_inBit hs l source ends (by have := List.mem_range.mp hi; omega)

end

section
variable {s : State} (hs : Filling s) {l source : List Byte} {ends : Bool}
include hs

theorem takeField_fedAlike (n : Nat) :
    TakeAlike l source ends (takeField n s) (takeField n (supplied l source ends s)) := by
  rw [takeField_eq, takeField_eq]
  refine .read hs.notEnded fun hn => ⟨hs.advance n, ?_⟩
  exact congrArg (·, _) (supplied_fieldValue hs l source ends hn)

theorem takeCode_fedAlike (n : Nat) :
    TakeAlike l source ends (takeCode n s) (takeCode n (supplied l source ends s)) := by
  rw [takeCode_eq, takeCode_eq]
  refine .read hs.notEnded fun hn => ⟨hs.advance n, ?_⟩
  exact congrArg (·, _) (supplied_codeValue hs l source ends hn)

theorem peekField_fedAlike (n : Nat) :
    LookAlike (peekField n s) (peekField n (supplied l source ends s)) := by
  rw [peekField_eq, peekField_eq]
  exact .read hs.notEnded fun hn => ⟨trivial, supplied_fieldValue hs l source ends hn⟩

theorem peekCode_fedAlike (n : Nat) :
    LookAlike (peekCode n s) (peekCode n (supplied l source ends s)) := by
  rw [peekCode_eq, peekCode_eq]
  exact .read hs.notEnded fun hn => ⟨trivial, supplied_codeValue hs l source ends hn⟩

theorem discard_fedAlike (n : Nat) :
    FedAlike Filling (supplied l source ends) (discard n s) (discard n (supplied l source ends s)) := by
  rw [discard_eq, discard_eq]
  exact .read hs.notEnded fun _ => ⟨hs.advance n, rfl⟩

theorem startsWith_fedAlike (p : Bits) :
    LookAlike (startsWith p s) (startsWith p (supplied l source ends s)) :=
  .read hs.notEnded fun hn => ⟨trivial, congrArg (· == p) (supplied_bitsAt hs l source ends hn)⟩

theorem hasBits_fedAlike (n : Nat) :
    LookAlike (hasBits n s) (hasBits n (supplied l source ends s)) :=
  .read hs.notEnded fun _ => ⟨trivial, rfl⟩

theorem ensure_fedAlike (n : Nat) : FedAlike (fun _ => s.rd.offset + n ≤ s.rd.readbits) id (ensure n s)
    (ensure n (supplied l source ends s)) := by
  rw [ensure_eq, ensure_eq]
  exact .read hs.notEnded fun hn => ⟨hn, rfl⟩

theorem takeExtra_fedAlike (row : Nat × Nat) :
    TakeAlike l source ends (takeExtra row s) (takeExtra row (supplied l source ends s)) :=
  (takeField_fedAlike hs row.1).bind fun _ h => .ok h

/-- `Decode` looks at the bits one by one, and at none past the codeword (42_huffman R611). -/
theorem decodeWalk_fedAlike (t : Table) (fuel k v : Nat) : TakeAlike l source ends (decodeWalk t s fuel k v)
    (decodeWalk t (supplied l source ends s) fuel k v) := by
  induction fuel generalizing k v with
  | zero => exact .stop _
  | succ fuel ih =>
    refine (ensure_fedAlike hs (k + 1)).bind fun _ hroom => ?_
    have hbit : (supplied l source ends s).inBit ((supplied l source ends s).rd.offset + k) =
        s.inBit (s.rd.offset + k) := supplied_inBit hs l source ends (Nat.lt_of_succ_le hroom)
    dsimp only
    rw [hbit]
    cases lookup t (k + 1) (2 * v + (s.inBit (s.rd.offset + k)).toNat) with
    | some sym => exact .ok (hs.advance (k + 1))
    | none => exact .ite (ih _ _) (.stop _)

omit hs in
/-- Building a table reads no input. -/
theorem buildTable_supplied (lens : List CodeLen) :
    buildTable lens (supplied l source ends s) = buildTable lens s := by
  unfold buildTable
  cases build lens <;> rfl

theorem decodeWith_fedAlike (lens : List CodeLen) :
    TakeAlike l source ends (decodeWith lens s) (decodeWith lens (supplied l source ends s)) := by
  rw [decodeWith, decodeWith, buildTable_supplied]
  exact (FedAlike.same _).bind fun t _ => .ite (.stop _) (decodeWalk_fedAlike hs t _ _ _)

end

/-! ### The window and the setup steps

What reads no input does the same, whatever the host has delivered. -/

section
variable (s : State) {l source : List Byte} {ends : Bool}

theorem winByte_fedAlike (j : Nat) :
    LookAlike (winByte j s) (winByte j (supplied l source ends s)) := .same (winByte j s)

theorem winBytes_supplied (j n : Nat) : winBytes j n (supplied l source ends s) = winBytes j n s := by
  induction n generalizing j with
  | zero => rfl
  | succ n ih => rw [winBytes, winBytes, ih]; rfl

theorem lastN_fedAlike (n : Nat) :
    LookAlike (lastN n s) (lastN n (supplied l source ends s)) := by
  have h : lastN n (supplied l source ends s) = lastN n s := by
    rw [lastN, lastN, winBytes_supplied]
    rfl
  rw [h]
  exact .same _

theorem winRead_fedAlike (i : Nat) :
    LookAlike (winRead i s) (winRead i (supplied l source ends s)) := .same (winRead i s)

theorem appendBackref_fedAlike (d : Nat) :
    RunAlike l source ends (appendBackref d s) (appendBackref d (supplied l source ends s)) :=
  .ite (.stop _) (.ite (.stop _) ((winByte_fedAlike s _).bind fun _ _ => .ok trivial))

theorem flushCheck_supplied (next : FsmState) :
    flushCheck next (supplied l source ends s) = supplied l source ends (flushCheck next s) := by
  by_cases h : s.win.size - s.win.flushed = s.cfg.flushT.toNat
  · rw [flushCheck, flushCheck, if_pos h]
    exact if_pos h
  · rw [flushCheck, flushCheck, if_neg h]
    exact if_neg h

theorem flushCheck_fedAlike (next : FsmState) : RunAlike l source ends (.ok (flushCheck next s))
    (.ok (flushCheck next (supplied l source ends s))) := by
  rw [flushCheck_supplied]
  exact .ok trivial

theorem repeatLength_fedAlike (r : Nat) (v : CodeLen) :
    RunAlike l source ends (repeatLength r v s) (repeatLength r v (supplied l source ends s)) :=
  .ite (.stop _) (.ok trivial)

theorem buildTable_fedAlike (lens : List CodeLen) :
    LookAlike (buildTable lens s) (buildTable lens (supplied l source ends s)) := by
  rw [buildTable_supplied]
  exact .same _

/-- A setup step builds two tables, then writes. -/
theorem setup_fedAlike {t u : State} (ll d : List CodeLen) : RunAlike l source ends
    (buildTable ll t >>= fun _ => buildTable d t >>= fun _ => .ok u)
    (buildTable ll (supplied l source ends t) >>= fun _ => buildTable d (supplied l source ends t) >>= fun _ =>
      .ok (supplied l source ends u)) :=
  (buildTable_fedAlike t ll).bind fun _ _ => (buildTable_fedAlike t d).bind fun _ _ => .ok trivial

theorem internalStep_fedAlike :
    RunAlike l source ends (internalStep s) (internalStep (supplied l source ends s)) := by
  have hst' : (supplied l source ends s).fsm.state = s.fsm.state := rfl
  cases hst : s.fsm.state <;> rw [hst] at hst' <;> simp only [internalStep, hst, hst']
  case fixedSetup => exact setup_fedAlike _ _
  case dynClBuild => exact (buildTable_fedAlike s _).bind fun _ _ => .ok trivial
  case dynBuild => exact setup_fedAlike _ _
  case copy =>
    refine (appendBackref_fedAlike s _).bind fun t _ => ?_
    exact flushCheck_fedAlike { t with fsm.copyRem := _ } _
  case flush => exact .ite ((winByte_fedAlike s _).bind fun _ _ => .ok trivial) (.ok trivial)
  case blockEnd => exact .ite (.ok trivial) (.ite (.ok trivial) (.ok trivial))
  all_goals exact .ok trivial

end

/-! ### The instructions -/

section
variable {s : State} (hs : Filling s) {l source : List Byte} {ends : Bool}
include hs

/-- Extra bits after a codeword, then the run. -/
theorem repeat_fedAlike (row : Nat × Nat) (v : State → CodeLen) (hv : ∀ t, v (supplied l source ends t) = v t)
    (sym : Nat) :
    RunAlike l source ends (takeExtra row (pastCl sym s) >>= fun p => repeatLength p.1 (v p.2) p.2)
      (takeExtra row (pastCl sym (supplied l source ends s)) >>= fun p => repeatLength p.1 (v p.2) p.2) :=
  (takeExtra_fedAlike (hs.advance _) row).bind fun p _ => by
    show RunAlike l source ends _ (repeatLength p.1 (v (supplied l source ends p.2)) (supplied l source ends p.2))
    rw [hv]
    exact repeatLength_fedAlike p.2 _ _

theorem lengthMeaning_fedAlike (sym : Nat) : StepFedAlike (supplied l source ends) s (lengthMeaning sym s)
    (lengthMeaning sym (supplied l source ends s)) :=
  settle_fedAlike <| .ite ((takeExtra_fedAlike hs _).bind fun _ _ => .ok trivial) (.ok trivial)

theorem distMeaning_fedAlike (sym : Nat) : StepFedAlike (supplied l source ends) s (distMeaning sym s)
    (distMeaning sym (supplied l source ends s)) :=
  settle_fedAlike <| .ite ((takeExtra_fedAlike hs _).bind fun _ _ => .ite (.stop _) (.ok trivial)) (.ok trivial)

omit hs in
/-- A command that takes bits and answers. -/
theorem answer_take_fedAlike {r r' : Run (Nat × State)} (h : TakeAlike l source ends r r') (f : Nat → Response) :
    RunAlike l source ends (r >>= fun p => .ok (answer (f p.1) p.2)) (r' >>= fun p => .ok (answer (f p.1) p.2)) :=
  h.bind fun _ _ => .ok trivial

omit hs in
/-- A command that looks at the input or the window and answers. -/
theorem answer_look_fedAlike {α : Type} {r r' : Run α} (h : LookAlike r r') (f : α → Response) :
    RunAlike l source ends (r >>= fun a => .ok (answer (f a) s))
      (r' >>= fun a => .ok (answer (f a) (supplied l source ends s))) :=
  h.bind fun _ _ => .ok trivial

/-- DISCARD and ALIGN. -/
theorem answer_discard_fedAlike (n : Nat) :
    RunAlike l source ends (discard n s >>= fun t => .ok (answer .completed t))
      (discard n (supplied l source ends s) >>= fun t => .ok (answer .completed t)) :=
  (discard_fedAlike hs n).bind fun _ _ => .ok trivial

omit hs in
/-- A word that raises, past its bits. -/
theorem raise_fedAlike (k : ErrKind) (n : Nat) : StepFedAlike (supplied l source ends) s
    (settle s (.error (.raise k (s.advance n).rd.offset)))
    (settle (supplied l source ends s) (.error (.raise k ((supplied l source ends s).advance n).rd.offset))) :=
  .same (.next (takeFault k (s.advance n).rd.offset s))

omit hs in
theorem execCll_fedAlike (len : BitVec 3) : StepFedAlike (supplied l source ends) s (execCll len s)
    (execCll len (supplied l source ends s)) := by
  have hidx : (supplied l source ends s).fsm.cllIdx = s.fsm.cllIdx := rfl
  refine settle_fedAlike ?_
  rw [hidx]
  split
  · exact .stop _
  · exact .ok trivial

omit hs in
theorem execCmdWinRead_fedAlike (i : Nat) : StepFedAlike (supplied l source ends) s (execCmdWinRead i s)
    (execCmdWinRead i (supplied l source ends s)) :=
  settleCommand_fedAlike ((winRead_fedAlike s i).bind fun _ _ => .ok trivial)

theorem execCmdDecode_fedAlike (table : TableSel) : StepFedAlike (supplied l source ends) s (execCmdDecode table s)
    (execCmdDecode table (supplied l source ends s)) := by
  have hlens : (supplied l source ends s).tableLens table = s.tableLens table := by cases table <;> rfl
  rw [execCmdDecode, execCmdDecode, hlens]
  exact settleCommand_fedAlike (answer_take_fedAlike (decodeWith_fedAlike hs _) .symbol)

theorem exec_fedAlike (i : Instr) :
    StepFedAlike (supplied l source ends) s (exec i s) (exec i (supplied l source ends s)) := by
  cases i with
  | zlibHeader | storedHeader => exact settle_fedAlike (.ite (.stop _) (.ok trivial))
  | blockStored | blockFixed | blockDynamic | dynHeader | eob => exact settle_fedAlike (.ok trivial)
  | blockInvalid | clInvalid19 | clInvalid20 | clInvalid24 | llInvalid | dInvalid => exact raise_fedAlike _ _
  | storedByte b => exact settle_fedAlike (flushCheck_fedAlike { append b (s.advance 8) with fsm.storedRem := _ } _)
  | lit b => exact settle_fedAlike (flushCheck_fedAlike (append b (pastLl b.toNat s)) _)
  | cll len => exact execCll_fedAlike len
  | clLit c => exact settle_fedAlike (.ite (.ok trivial) (.stop _))
  | rep16 => exact settle_fedAlike (.ite (.stop _) (repeat_fedAlike hs _ previousLength (fun _ => rfl) 16))
  | zero17 => exact settle_fedAlike (repeat_fedAlike hs _ (fun _ => 0) (fun _ => rfl) 17)
  | zero18 => exact settle_fedAlike (repeat_fedAlike hs _ (fun _ => 0) (fun _ => rfl) 18)
  | len257 | len258 | len259 | len260 | len261 | len262 | len263 | len264 | len265 | len266 | len267 | len268 | len269
  | len270 | len271 | len272 | len273 | len274 | len275 | len276 | len277 | len278 | len279 | len280 | len281 | len282
  | len283 | len284 | len285 => exact lengthMeaning_fedAlike hs _
  | dist0 | dist1 | dist2 | dist3 | dist4 | dist5 | dist6 | dist7 | dist8 | dist9 | dist10 | dist11 | dist12 | dist13
  | dist14 | dist15 | dist16 | dist17 | dist18 | dist19 | dist20 | dist21 | dist22 | dist23 | dist24 | dist25 | dist26
  | dist27 | dist28 | dist29 => exact distMeaning_fedAlike hs _
  | cmdTakeField n => exact settleCommand_fedAlike (.checked (answer_take_fedAlike (takeField_fedAlike hs n) .value))
  | cmdTakeCode n => exact settleCommand_fedAlike (.checked (answer_take_fedAlike (takeCode_fedAlike hs n) .value))
  | cmdPeekField n => exact settleCommand_fedAlike (.checked (answer_look_fedAlike (peekField_fedAlike hs n) .value))
  | cmdPeekCode n => exact settleCommand_fedAlike (.checked (answer_look_fedAlike (peekCode_fedAlike hs n) .value))
  | cmdDiscard n => exact settleCommand_fedAlike (.checked (answer_discard_fedAlike hs n))
  | cmdAlign => exact settleCommand_fedAlike (answer_discard_fedAlike hs (alignPad s))
  | cmdStartsWith p => exact settleCommand_fedAlike (.checked (answer_look_fedAlike (startsWith_fedAlike hs p) .flag))
  | cmdHasBits n => exact settleCommand_fedAlike (.checked (answer_look_fedAlike (hasBits_fedAlike hs n) .flag))
  | cmdDecode table => exact execCmdDecode_fedAlike hs table
  | cmdAppendLiteral b => exact settleCommand_fedAlike (.ok trivial)
  | cmdAppendBackref d => exact settleCommand_fedAlike ((appendBackref_fedAlike s d).bind fun _ _ => .ok trivial)
  | cmdLastN n => exact settleCommand_fedAlike (answer_look_fedAlike (lastN_fedAlike s n) _)
  | cmdWinRead i => exact execCmdWinRead_fedAlike i
  | cmdBuild lens => exact settleCommand_fedAlike (.checked (answer_look_fedAlike (buildTable_fedAlike s lens) .table))
  | cmdReserved low => exact .same (.refused .reservedCommand)

/-! ### The step of the core -/

theorem readWord_fedAlike (f : Format) :
    LookAlike (readWord f s) (readWord f (supplied l source ends s)) := by
  cases f with
  | zlibHdr16 =>
    exact (takeField_fedAlike hs 8).bind fun _ h => (takeField_fedAlike h 8).bind fun _ _ => .ok trivial
  | blockHdr3 =>
    exact (takeField_fedAlike hs 1).bind fun _ h => (takeField_fedAlike h 2).bind fun _ _ => .ok trivial
  | storedHdr32 =>
    exact (discard_fedAlike hs (alignPad s)).bind fun _ h =>
      (takeField_fedAlike h 16).bind fun _ h => (takeField_fedAlike h 16).bind fun _ _ => .ok trivial
  | byte8 => exact (takeField_fedAlike hs 8).bind fun _ _ => .ok trivial
  | dynHdr14 =>
    exact (takeField_fedAlike hs 5).bind fun _ h => (takeField_fedAlike h 5).bind fun _ h =>
      (takeField_fedAlike h 4).bind fun _ _ => .ok trivial
  | cll3 => exact (takeField_fedAlike hs 3).bind fun _ _ => .ok trivial
  | clSym5 => exact (decodeWith_fedAlike hs s.clLens).bind fun _ _ => .ok trivial
  | llSym9 => exact (decodeWith_fedAlike hs s.llLens).bind fun _ _ => .ok trivial
  | dSym5 => exact (decodeWith_fedAlike hs s.dLens).bind fun _ _ => .ok trivial
  | cmd4 => exact .same (readWord .cmd4 s)

theorem fetch_fedAlike (f : Format) :
    LookAlike (fetch f s) (fetch f (supplied l source ends s)) :=
  (readWord_fedAlike hs f).bind fun v _ => .same (instrOf f v s)

theorem stream_fedAlike : FetchAlike ((streamFormat s).map fun f => fetch f s)
    ((streamFormat s).map fun f => fetch f (supplied l source ends s)) := by
  cases streamFormat s with
  | none => exact .internal
  | some f => exact .fetched (fetch_fedAlike hs f)

theorem nextElement_fedAlike : FetchAlike (nextElement s) (nextElement (supplied l source ends s)) := by
  have hst : (supplied l source ends s).fsm.state = s.fsm.state := rfl
  rw [nextElement, nextElement, hst]
  refine .ite .internal (.ite (.fetched (fetch_fedAlike hs _)) ?_)
  split
  · exact .fetched (.same (fetchLength s))
  · exact .fetched (.same (fetchDistance s))
  all_goals exact stream_fedAlike hs

theorem coreStep_fedAlike :
    StepFedAlike (supplied l source ends) s (coreStep s) (coreStep (supplied l source ends s)) := by
  have hnext : FetchAlike (nextElement s) (nextElement (supplied l source ends s)) := nextElement_fedAlike hs
  rw [coreStep, coreStep]
  generalize nextElement s = o at hnext ⊢
  generalize nextElement (supplied l source ends s) = o' at hnext ⊢
  cases hnext with
  | internal => exact settle_fedAlike (internalStep_fedAlike s)
  | fetched hr =>
    cases hr with
    | hold => exact .hold _
    | @ok i _ => exact exec_fedAlike hs i
    | stop e => exact settle_fedAlike (.stop e)

/-- Where in_req is 0 the step is the same, whatever the host has delivered and has left to give. The step compared is that
of the host which has nothing but the end of the input: if it held, it would take the end, and in_req would be 1. -/
theorem coreStep_supplied (l source : List Byte) (ends : Bool) (hreq : inReq s = false) :
    coreStep (supplied l source ends (withoutInput s)) =
      mapNext (supplied l source ends) (coreStep (withoutInput s)) := by
  have hfill : Filling (withoutInput s) := ⟨hs.whole, hs.notEnded⟩
  have halike : StepFedAlike (supplied l source ends) (withoutInput s) _ _ := coreStep_fedAlike hfill
  rw [inReq] at hreq
  generalize coreStep (withoutInput s) = o at halike hreq ⊢
  generalize coreStep (supplied l source ends (withoutInput s)) = o' at halike ⊢
  cases halike with
  | hold => simp [holdInput, withoutInput, hs.notEnded] at hreq
  | same => rfl

end

/-- With no action of the host's, the step is the core's. -/
theorem step_of_no_actions {s : State} (ha : s.host.actions = []) : step s = coreStep s := by
  simp only [step, ha]

/-- Delivering `l` early to a state that has been supplied with nothing early. -/
theorem refilled_supplied (l source : List Byte) (ends : Bool) (t : State) :
    refilled l (supplied [] source ends t) = supplied l source ends t := by
  simp [refilled, supplied]

/-- Settles O59: both steps are that of the host with nothing but the end of the input (`coreStep_supplied`). -/
theorem inputTimingIsUnobservable : Obligations.InputTimingIsUnobservable := by
  intro s t l hs hend ha hreq hstep
  have hfill : Filling s := ⟨hs.readbits, hend⟩
  have hback : supplied [] s.host.source s.host.sourceEnds (withoutInput s) = s := by
    simp [supplied, refilled, withoutInput, ← ha]
  rw [step_of_no_actions ha] at hstep
  have hhere := coreStep_supplied hfill [] s.host.source s.host.sourceEnds hreq
  have hearly := coreStep_supplied hfill l s.host.source s.host.sourceEnds hreq
  rw [hback, hstep] at hhere
  rw [← refilled_supplied, hback] at hearly
  rw [step_of_no_actions (s := refilled l s) ha, hearly]
  generalize coreStep (withoutInput s) = o at hhere
  cases o with
  | next u =>
    obtain rfl := Host.Outcome.next.inj hhere
    rw [refilled_supplied]
    rfl
  | fault | refused => cases hhere

end Sys2Proof.Machine

namespace Sys2Proof.Machine

/-! ## The canonical codes

`firstCode lens L` is `next_code[L]` (42_huffman R604), and `kraftUpTo lens L` is the part of the code space, in units
of 2^-15, that the codewords up to length `L` take. The codes of length `L`, shifted to 15 bits, fill exactly the part
from `kraftUpTo lens (L-1)` to below `kraftUpTo lens L`. So a 15-bit string begins with a codeword just where its value
is below the Kraft sum; and where the value 2^15 is itself below it, some symbol's code does not fit its length. -/

section
variable (lens : List CodeLen)

/-- The model's Kraft sum is that of 42_huffman R606. -/
theorem kraftUpTo_eq_sum {n : Nat} (hn : n ≤ 15) :
    kraftUpTo lens n = ∑ L ∈ Finset.Icc 1 n, symbolsOfLength lens L * 2 ^ (15 - L) := by
  induction n with
  | zero => rfl
  | succ n ih =>
    have hpow : 14 - n = 15 - (n + 1) := by omega
    rw [kraftUpTo_succ, ih (by omega), Finset.sum_Icc_succ_top (by omega), hpow]
    rfl

theorem kraft_eq_KraftSum : kraft lens = KraftSum lens := kraftUpTo_eq_sum lens (le_refl 15)

theorem build_of_le (h : KraftSum lens ≤ 2 ^ 15) : build lens = some (assignCodes (nextCodes lens) 0 lens) := by
  rw [← kraft_eq_KraftSum] at h
  exact if_neg (Nat.not_lt.mpr h)

theorem build_of_lt (h : 2 ^ 15 < KraftSum lens) : build lens = none := by
  rw [← kraft_eq_KraftSum] at h
  exact if_pos h

variable {lens}

theorem buildTable_of_some {t : Table} (s : State) (hb : build lens = some t) : buildTable lens s = .ok t := by
  rw [buildTable, hb]

theorem buildTable_of_none (s : State) (hb : build lens = none) :
    buildTable lens s = .error (.raise .oversubscribedCode s.rd.offset) := by
  rw [buildTable, hb]

end

/-! ### The entries of a table -/

section
variable {lens : List CodeLen} {t : Table} {d e : CodeEntry} {sym : Nat} {L : CodeLen}

/-- A symbol has one codeword at most. -/
theorem assignCodes_eq_of_sym {next : List Nat} (hd : d ∈ assignCodes next sym lens)
    (he : e ∈ assignCodes next sym lens) (h : d.sym = e.sym) : d = e := by
  induction lens generalizing next sym with
  | nil => cases hd
  | cons l ls ih =>
    rw [assignCodes] at hd he
    split at hd
    · rename_i h0
      rw [if_pos h0] at he
      exact ih hd he
    · rename_i h0
      rw [if_neg h0] at he
      rcases List.mem_cons.mp hd with rfl | hd' <;> rcases List.mem_cons.mp he with rfl | he'
      · rfl
      · have := (mem_assignCodes he').1
        simp only at h
        omega
      · have := (mem_assignCodes hd').1
        simp only at h
        omega
      · exact ih hd' he'

/-- Each symbol of nonzero length gets the canonical code (42_huffman R605). -/
theorem canonical_mem_build (hb : build lens = some t) (h : lens[sym]? = some L) (hL : L ≠ 0) :
    (⟨L.toNat, canonicalCode lens (firstCode lens) sym L, sym⟩ : CodeEntry) ∈ t := by
  have hfind := find_assignCodes (sym := 0) (nextCodesFrom_length lens 0 0 16) h hL
  rw [← nextCodes, nextCodes_getD lens L.isLt, Nat.zero_add] at hfind
  rw [(build_eq_some hb).2]
  exact List.mem_of_find?_eq_some hfind

/-- The table holds the canonical codewords and nothing else. -/
theorem mem_build_iff (hb : build lens = some t) : e ∈ t ↔ ∃ L, lens[e.sym]? = some L ∧ L ≠ 0 ∧ e.len = L.toNat ∧
    e.code = canonicalCode lens (firstCode lens) e.sym L := by
  constructor
  · intro he
    have he' := he
    rw [(build_eq_some hb).2] at he'
    obtain ⟨-, hlt, hlen, h1⟩ := mem_assignCodes he'
    rw [Nat.sub_zero] at hlt hlen
    have hget : lens[e.sym]? = some lens[e.sym] := List.getElem?_eq_getElem hlt
    rw [List.getD_eq_getElem _ _ hlt] at hlen
    have hne : lens[e.sym] ≠ 0 := fun h0 => by
      rw [hlen, h0] at h1
      exact absurd h1 (by decide)
    have hmem := canonical_mem_build hb hget hne
    rw [(build_eq_some hb).2] at hmem
    exact ⟨_, hget, hne, hlen, congrArg CodeEntry.code (assignCodes_eq_of_sym he' hmem rfl)⟩
  · rintro ⟨L, hget, hL, hlen, hcode⟩
    have hmem := canonical_mem_build hb hget hL
    rwa [← hlen, ← hcode] at hmem

/-- The recurrence of 42_huffman R604 has one solution. -/
theorem NextCode.eq_firstCode {nc : Nat → Nat} (h : NextCode lens nc) {L : Nat} (h1 : 1 ≤ L) (h15 : L ≤ 15) :
    nc L = firstCode lens L := by
  induction L, h1 using Nat.le_induction with
  | base => rw [h.1]; rfl
  | succ L h1 ih => rw [h.2 L h1 (by omega), ih (by omega), firstCode, blCount, if_neg (by omega)]; rfl

theorem NextCode.canonicalCode_eq {nc : Nat → Nat} (h : NextCode lens nc) (sym : Nat) (hL : L ≠ 0) :
    canonicalCode lens nc sym L = canonicalCode lens (firstCode lens) sym L := by
  rw [canonicalCode, canonicalCode, h.eq_firstCode (toNat_pos hL) (by omega)]

/-- Lengths are counted alike as words and as numbers. -/
theorem canonicalCode_toNat (nc : Nat → Nat) : canonicalCode lens nc sym L =
    nc L.toNat + (lens.take sym).countP fun l => l.toNat == L.toNat := by
  have hbeq : (fun l : CodeLen => l == L) = fun l => l.toNat == L.toNat :=
    funext fun l => beq_eq_beq.mpr BitVec.toNat_inj.symm
  rw [canonicalCode, hbeq]

end

/-! ### The code space -/

/-- Of the elements a list counts, the one that has `j` of them before it. -/
theorem exists_getElem?_countP_take {α : Type} (p : α → Bool) {l : List α} {j : Nat} (hj : j < l.countP p) :
    ∃ k a, l[k]? = some a ∧ p a = true ∧ (l.take k).countP p = j := by
  induction l generalizing j with
  | nil => simp at hj
  | cons b l ih =>
    rw [List.countP_cons] at hj
    by_cases hb : p b = true
    · rw [if_pos hb] at hj
      cases j with
      | zero => exact ⟨0, b, rfl, hb, rfl⟩
      | succ j =>
        obtain ⟨k, a, hk, ha, hc⟩ := ih (j := j) (by omega)
        exact ⟨k + 1, a, hk, ha, by rw [List.take_succ_cons, List.countP_cons, hc, if_pos hb]⟩
    · rw [if_neg hb] at hj
      obtain ⟨k, a, hk, ha, hc⟩ := ih hj
      exact ⟨k + 1, a, hk, ha, by rw [List.take_succ_cons, List.countP_cons, hc, if_neg hb]; rfl⟩

section
variable (lens : List CodeLen)

/-- The codes of length `L` begin, at 15 bits, where those of the shorter lengths end. -/
theorem firstCode_shift {n : Nat} (hn : n ≤ 14) : firstCode lens (n + 1) * 2 ^ (14 - n) = kraftUpTo lens n := by
  have h := kraftUpTo_eq lens n hn
  rw [kraftUpTo_succ, Nat.add_mul] at h
  exact Nat.add_right_cancel h

/-- A value between two Kraft sums, cut to the length, is one of the length's codes. -/
theorem leading_lt_iff {n : Nat} (hn : n ≤ 14) (v : Nat) :
    v / 2 ^ (14 - n) < firstCode lens (n + 1) + blCount lens (n + 1) ↔ v < kraftUpTo lens (n + 1) := by
  rw [Nat.div_lt_iff_lt_mul (by positivity), kraftUpTo_eq lens n hn]

theorem firstCode_le_leading_iff {n : Nat} (hn : n ≤ 14) (v : Nat) :
    firstCode lens (n + 1) ≤ v / 2 ^ (14 - n) ↔ kraftUpTo lens n ≤ v := by
  rw [Nat.le_div_iff_mul_le (by positivity), firstCode_shift lens hn]

variable {lens}

/-- The code `j` of a length is taken by one of the length's symbols. -/
theorem exists_symbol {n j : Nat} (hj : j < blCount lens (n + 1)) : ∃ (sym : Nat) (L : CodeLen),
    lens[sym]? = some L ∧ L ≠ 0 ∧ L.toNat = n + 1 ∧
      canonicalCode lens (firstCode lens) sym L = firstCode lens (n + 1) + j := by
  obtain ⟨sym, L, hget, hL, hcount⟩ := exists_getElem?_countP_take _ hj
  have hlen : L.toNat = n + 1 := beq_iff_eq.mp hL
  refine ⟨sym, L, hget, ?_, hlen, ?_⟩
  · rintro rfl
    cases hlen
  · rw [canonicalCode_toNat, hlen, hcount]

/-- Every value below the Kraft sum, cut to some length, is the canonical code of a symbol of that length. -/
theorem exists_symbol_of_lt_kraft {v : Nat} (hv : v < kraft lens) : ∃ (sym : Nat) (L : CodeLen),
    lens[sym]? = some L ∧ L ≠ 0 ∧ canonicalCode lens (firstCode lens) sym L = v / 2 ^ (15 - L.toNat) := by
  have hex : ∃ n, v < kraftUpTo lens (n + 1) := ⟨14, hv⟩
  have hn : Nat.find hex ≤ 14 := Nat.find_min' hex hv
  have hhi := Nat.find_spec hex
  have hlo : kraftUpTo lens (Nat.find hex) ≤ v := by
    cases h : Nat.find hex with
    | zero => exact Nat.zero_le v
    | succ m => exact Nat.not_lt.mp (Nat.find_min hex (by omega))
  generalize Nat.find hex = n at hn hhi hlo
  rw [← leading_lt_iff lens hn] at hhi
  rw [← firstCode_le_leading_iff lens hn] at hlo
  obtain ⟨sym, L, hget, hL, hlen, hcode⟩ :=
    exists_symbol (lens := lens) (n := n) (j := v / 2 ^ (14 - n) - firstCode lens (n + 1)) (by omega)
  have hpow : 15 - (n + 1) = 14 - n := by omega
  refine ⟨sym, L, hget, hL, ?_⟩
  rw [hcode, hlen, Nat.add_sub_cancel' hlo, hpow]

end

/-- Settles O35: the table holds the canonical codewords (`mem_build_iff`), each of which fits its length; in an
oversubscribed set the value 2^15 lies below the Kraft sum, so that some symbol has the code 2^L. -/
theorem buildAssignsCanonicalCodes : Obligations.BuildAssignsCanonicalCodes := by
  refine fun lens nc hnc => ⟨fun hk => ⟨build_of_lt lens hk, fun s => buildTable_of_none s (build_of_lt lens hk)⟩,
    fun hk => ⟨_, build_of_le lens hk, fun e => ?_⟩, fun hk => ?_, fun ⟨sym, L, hget, hL, hcode⟩ => ?_⟩
  · rw [mem_build_iff (build_of_le lens hk)]
    refine exists_congr fun L => and_congr_right fun _ => and_congr_right fun hL => ?_
    rw [hnc.canonicalCode_eq e.sym hL]
  · rw [← kraft_eq_KraftSum] at hk
    obtain ⟨sym, L, hget, hL, hcode⟩ := exists_symbol_of_lt_kraft hk
    refine ⟨sym, L, hget, hL, ?_⟩
    have hL15 := L.isLt
    rw [hnc.canonicalCode_eq sym hL, hcode, Nat.pow_div (Nat.sub_le _ _) (by decide), Nat.sub_sub_self (by omega)]
  · rw [hnc.canonicalCode_eq sym hL] at hcode
    by_contra hk
    have hb := build_of_le lens (Nat.not_lt.mp hk)
    exact absurd (build_code_lt hb (canonical_mem_build hb hget hL)) (Nat.not_lt.mpr hcode)

end Sys2Proof.Machine

namespace Sys2Proof.Machine

/-! ## Codewords as bit strings -/

section
variable {n v : Nat}

theorem codeBits_length (n v : Nat) : (codeBits n v).length = n := by
  rw [codeBits, List.length_reverse, fieldBits_length]

/-- The last bit of a code is its least significant one. -/
theorem codeBits_succ (n v : Nat) : codeBits (n + 1) v = codeBits n (v / 2) ++ [v % 2 == 1] := List.reverse_cons

theorem codeBits_append_bit (n v : Nat) (b : Bool) : codeBits (n + 1) (2 * v + b.toNat) = codeBits n v ++ [b] := by
  have hdiv : (2 * v + b.toNat) / 2 = v := by have := Bool.toNat_le b; omega
  rw [codeBits_succ, hdiv, Nat.mul_add_mod]
  cases b <;> rfl

/-- The leading bits of a code. -/
theorem codeBits_take {k : Nat} (hk : k ≤ n) : (codeBits n v).take k = codeBits k (v / 2 ^ (n - k)) := by
  induction n generalizing v with
  | zero =>
    obtain rfl := Nat.le_zero.mp hk
    rfl
  | succ n ih =>
    by_cases hlast : k = n + 1
    · rw [hlast, Nat.sub_self, Nat.pow_zero, Nat.div_one, List.take_of_length_le (codeBits_length _ _).le]
    · have hsub : n + 1 - k = n - k + 1 := by omega
      rw [codeBits_succ, List.take_append_of_le_length (by rw [codeBits_length]; omega), ih (by omega), hsub,
        Nat.pow_succ', Nat.div_div_eq_div_mul]

/-- Codes that fit their length are told apart by their bits. -/
theorem codeBits_inj {c d : Nat} (hc : c < 2 ^ n) (hd : d < 2 ^ n) : codeBits n c = codeBits n d ↔ c = d := by
  refine ⟨fun h => ?_, fun h => h ▸ rfl⟩
  induction n generalizing c d with
  | zero => omega
  | succ n ih =>
    rw [codeBits_succ, codeBits_succ] at h
    obtain ⟨hinit, hlast⟩ := List.append_inj' h rfl
    have hhalf := ih (by omega) (by omega) hinit
    simp only [List.cons.injEq, and_true, beq_eq_beq] at hlast
    omega

/-- Every bit string is the code of some value that fits its length. -/
theorem exists_codeBits (p : Bits) : ∃ v, v < 2 ^ p.length ∧ codeBits p.length v = p := by
  induction p using List.reverseRecOn with
  | nil => exact ⟨0, by decide, rfl⟩
  | append_singleton p b ih =>
    obtain ⟨v, hv, hp⟩ := ih
    rw [List.length_append, List.length_singleton]
    refine ⟨2 * v + b.toNat, ?_, by rw [codeBits_append_bit, hp]⟩
    have := Bool.toNat_le b
    omega

theorem codeBits_prefix_iff {k c : Nat} (hc : c < 2 ^ k) (hv : v < 2 ^ n) :
    codeBits k c <+: codeBits n v ↔ k ≤ n ∧ c = v / 2 ^ (n - k) := by
  have htake (hk : k ≤ n) : codeBits k c = (codeBits n v).take k ↔ c = v / 2 ^ (n - k) := by
    have hlt : v / 2 ^ (n - k) < 2 ^ k := by
      rwa [Nat.div_lt_iff_lt_mul (by positivity), ← Nat.pow_add, Nat.add_sub_cancel' hk]
    rw [codeBits_take hk, codeBits_inj hc hlt]
  rw [List.prefix_iff_eq_take, codeBits_length]
  constructor
  · intro h
    have hlen := congrArg List.length h
    rw [List.length_take, codeBits_length, codeBits_length] at hlen
    have hk : k ≤ n := by omega
    exact ⟨hk, (htake hk).mp h⟩
  · exact fun ⟨hk, h⟩ => (htake hk).mpr h

end

/-! ### The bits at the cursor -/

section
variable (s : State)

theorem bitsAt_eq_codeBits (k n : Nat) : bitsAt s k n = codeBits n (codeValue s k n) := by
  induction n with
  | zero => rfl
  | succ n ih => rw [bitsAt_add, ih, codeValue, codeBits_append_bit]; rfl

theorem codeValue_div {k m n : Nat} (h : m ≤ n) : codeValue s k n / 2 ^ (n - m) = codeValue s k m := by
  induction n, h using Nat.le_induction with
  | base => rw [Nat.sub_self, Nat.pow_zero, Nat.div_one]
  | succ n hmn ih =>
    have hbit := Bool.toNat_le (s.inBit (k + n))
    have hhalf : codeValue s k (n + 1) / 2 = codeValue s k n := by rw [codeValue]; omega
    rw [Nat.sub_add_comm hmn, Nat.pow_succ', ← Nat.div_div_eq_div_mul, hhalf, ih]

end

/-! ### Prefixes -/

section
variable {lens : List CodeLen} {t : Table} {d e : CodeEntry} {v : Nat}

theorem CodeEntry.bits_length (e : CodeEntry) : e.bits.length = e.len := codeBits_length _ _

/-- No codeword begins another (42_huffman R607). -/
theorem build_not_prefix (hb : build lens = some t) (hd : d ∈ t) (he : e ∈ t) (hne : d ≠ e) : ¬ d.bits <+: e.bits := by
  rw [CodeEntry.bits, CodeEntry.bits, codeBits_prefix_iff (build_code_lt hb hd) (build_code_lt hb he)]
  rintro ⟨hle, hcode⟩
  rcases Nat.eq_or_lt_of_le hle with hlen | hlt
  · rw [hlen, Nat.sub_self, Nat.pow_zero, Nat.div_one] at hcode
    exact hne (build_inj hb hd he hlen hcode)
  · exact build_code_ne_leading hb hd he hlt hcode

/-- A string begins with one codeword at most. -/
theorem build_prefix_unique (hb : build lens = some t) (hd : d ∈ t) (he : e ∈ t) {p : Bits} (hdp : d.bits <+: p)
    (hep : e.bits <+: p) : d = e := by
  by_contra hne
  rcases List.prefix_or_prefix_of_prefix hdp hep with h | h
  · exact build_not_prefix hb hd he hne h
  · exact build_not_prefix hb he hd (Ne.symm hne) h

/-- A 15-bit string begins with a codeword exactly where its value is below the Kraft sum. -/
theorem exists_prefix_iff (hb : build lens = some t) (hv : v < 2 ^ 15) :
    (∃ e, e ∈ t ∧ e.bits <+: codeBits 15 v) ↔ v < kraft lens := by
  constructor
  · rintro ⟨e, he, hp⟩
    rw [CodeEntry.bits, codeBits_prefix_iff (build_code_lt hb he) hv] at hp
    obtain ⟨-, hcode⟩ := hp
    obtain ⟨h1, h15⟩ := len_lt_of_mem_build hb he
    have hlt := (build_code_bounds hb he).2
    obtain ⟨n, hn⟩ := Nat.exists_eq_add_of_le' h1
    have hpow : 15 - (n + 1) = 14 - n := by omega
    rw [hcode, hn, hpow, leading_lt_iff lens (by omega)] at hlt
    exact hlt.trans_le (kraftUpTo_mono lens (n := 15) (by omega))
  · intro hk
    obtain ⟨sym, L, hget, hL, hcode⟩ := exists_symbol_of_lt_kraft hk
    have hmem := canonical_mem_build hb hget hL
    refine ⟨_, hmem, ?_⟩
    rw [CodeEntry.bits, codeBits_prefix_iff (build_code_lt hb hmem) hv]
    exact ⟨(len_lt_of_mem_build hb hmem).2, hcode⟩

/-- Lengths of zero give no codeword (42_huffman R603). -/
theorem build_eq_nil_of_zero (hb : build lens = some t) (h : ∀ l, l ∈ lens → l = 0) : t = [] := by
  refine List.eq_nil_iff_forall_not_mem.mpr fun e he => ?_
  obtain ⟨L, hget, hL, -, -⟩ := (mem_build_iff hb).mp he
  exact hL (h L (List.mem_of_getElem? hget))

end

/-! ### Decode without a codeword at the cursor -/

section
variable {lens : List CodeLen} {t : Table} {e : CodeEntry} {s : State} {m : Nat}

theorem decodeSymbol_nil (s : State) : decodeSymbol [] s = .error (.raise .symbolDecodeError s.rd.offset) := rfl

theorem decodeSymbol_of_mem (he : e ∈ t) : decodeSymbol t s = decodeWalk t s 15 0 0 := by
  refine if_neg ?_
  rw [List.isEmpty_iff]
  exact List.ne_nil_of_mem he

theorem decodeWith_of_some (hb : build lens = some t) : decodeWith lens s = decodeSymbol t s := by
  rw [decodeWith, buildTable_of_some s hb]
  rfl

theorem decodeWith_of_none (hb : build lens = none) :
    decodeWith lens s = .error (.raise .oversubscribedCode s.rd.offset) := by
  rw [decodeWith, buildTable_of_none s hb]
  rfl

/-- One bit of the walk that completes no codeword. -/
theorem decodeWalk_of_lookup_none {fuel k : Nat} (hroom : s.rd.offset + (k + 1) ≤ s.rd.readbits)
    (hlook : lookup t (k + 1) (codeValue s s.rd.offset (k + 1)) = none) :
    decodeWalk t s (fuel + 1) k (codeValue s s.rd.offset k) =
      if hasLonger t (k + 1) (codeValue s s.rd.offset (k + 1)) then
        decodeWalk t s fuel (k + 1) (codeValue s s.rd.offset (k + 1))
      else .error (.raise .symbolDecodeError s.rd.offset) := by
  rw [codeValue] at hlook ⊢
  simp only [decodeWalk, ensure_ok hroom, bind, Except.bind, hlook]

/-- The walk over `m` buffered bits that begin with no codeword and begin none (42_huffman R610). -/
theorem decodeWalk_raises (hroom : s.rd.offset + m ≤ s.rd.readbits)
    (hno : ∀ e, e ∈ t → e.len ≤ m → e.code ≠ codeValue s s.rd.offset e.len)
    (hlonger : hasLonger t m (codeValue s s.rd.offset m) = false) (fuel k : Nat) (hk : k < m) :
    decodeWalk t s fuel k (codeValue s s.rd.offset k) = .error (.raise .symbolDecodeError s.rd.offset) := by
  induction fuel generalizing k with
  | zero => rfl
  | succ fuel ih =>
    have hlook : lookup t (k + 1) (codeValue s s.rd.offset (k + 1)) = none := by
      cases h : lookup t (k + 1) (codeValue s s.rd.offset (k + 1)) with
      | none => rfl
      | some sym =>
        obtain ⟨e, he, hlen, hcode, -⟩ := lookup_some h
        exact absurd (hlen ▸ hcode) (hno e he (by omega))
    rw [decodeWalk_of_lookup_none (by omega) hlook]
    by_cases hlast : k + 1 = m
    · rw [hlast, hlonger]
      rfl
    · rw [ih (k + 1) (by omega), ite_self]

/-- The walk over `m` buffered bits, the last of the buffer, that begin a longer codeword. -/
theorem decodeWalk_short (hb : build lens = some t) (he : e ∈ t) (hm : m < e.len)
    (hroom : s.rd.offset + m = s.rd.readbits) (hcode : codeValue s s.rd.offset m = e.code / 2 ^ (e.len - m))
    (fuel k : Nat) (hk : k ≤ m) (hfuel : m < k + fuel) :
    decodeWalk t s fuel k (codeValue s s.rd.offset k) = .error (shortage s) := by
  induction fuel generalizing k with
  | zero => omega
  | succ fuel ih =>
    by_cases hlast : k = m
    · rw [decodeWalk, ensure_short (by omega)]
      rfl
    · have hk' : k + 1 ≤ m := by omega
      have hnext : codeValue s s.rd.offset (k + 1) = e.code / 2 ^ (e.len - (k + 1)) := by
        have hsum : e.len - (k + 1) = e.len - m + (m - (k + 1)) := by omega
        rw [← codeValue_div s hk', hcode, Nat.div_div_eq_div_mul, ← Nat.pow_add, hsum]
      have hlook := lookup_leading hb he (k := k + 1) (by omega)
      have hlonger := hasLonger_leading he (k := k + 1) (by omega)
      rw [← hnext] at hlook hlonger
      rw [decodeWalk_of_lookup_none (by omega) hlook, hlonger]
      exact ih (k + 1) hk' (by omega)

/-- Which codewords begin the bits at the cursor. -/
theorem prefix_bitsAt_iff (hb : build lens = some t) (he : e ∈ t) :
    e.bits <+: bitsAt s s.rd.offset m ↔ e.len ≤ m ∧ e.code = codeValue s s.rd.offset e.len := by
  rw [CodeEntry.bits, bitsAt_eq_codeBits, codeBits_prefix_iff (build_code_lt hb he) (codeValue_lt _ _ _)]
  refine and_congr_right fun h => ?_
  rw [codeValue_div s h]

/-- Which codewords the bits at the cursor begin. -/
theorem bitsAt_prefix_iff (hb : build lens = some t) (he : e ∈ t) :
    bitsAt s s.rd.offset m <+: e.bits ↔ m ≤ e.len ∧ codeValue s s.rd.offset m = e.code / 2 ^ (e.len - m) := by
  rw [CodeEntry.bits, bitsAt_eq_codeBits, codeBits_prefix_iff (codeValue_lt _ _ _) (build_code_lt hb he)]

/-- Buffered bits that are neither a codeword's beginning nor begin with one. -/
theorem decodeSymbol_raises (hb : build lens = some t) {p : Bits} (hp : bitsStand p s)
    (hno : ∀ e, e ∈ t → ¬ e.bits <+: p ∧ ¬ p <+: e.bits) :
    decodeSymbol t s = .error (.raise .symbolDecodeError s.rd.offset) := by
  obtain ⟨hroom, hbits⟩ := hp
  cases ht : t with
  | nil => exact decodeSymbol_nil s
  | cons e₀ t₀ =>
    have he₀ : e₀ ∈ t := ht ▸ List.mem_cons_self
    have hpos : 0 < p.length := by
      rw [List.length_pos_iff]
      rintro rfl
      exact (hno e₀ he₀).2 List.nil_prefix
    rw [← ht, decodeSymbol_of_mem he₀]
    refine decodeWalk_raises hroom (fun e he hlen hcode => (hno e he).1 ?_) ?_ 15 0 hpos
    · rw [← hbits, prefix_bitsAt_iff hb he]
      exact ⟨hlen, hcode⟩
    · refine List.any_eq_false.mpr fun e he h => (hno e he).2 ?_
      simp only [Bool.and_eq_true, decide_eq_true_eq, beq_iff_eq] at h
      rw [← hbits, bitsAt_prefix_iff hb he]
      exact ⟨h.1.le, h.2.symm⟩

/-- All the buffered bits are a codeword's beginning and not all of it. -/
theorem decodeSymbol_short (hb : build lens = some t) {p : Bits} (hp : bitsStand p s)
    (hall : s.rd.offset + p.length = s.rd.readbits) (he : e ∈ t) (hpre : p <+: e.bits) (hne : p ≠ e.bits) :
    decodeSymbol t s = .error (shortage s) := by
  obtain ⟨-, hbits⟩ := hp
  have hlt : p.length < e.len := by
    rw [← CodeEntry.bits_length]
    exact lt_of_le_of_ne hpre.length_le fun h => hne (hpre.eq_of_length h)
  rw [← hbits, bitsAt_prefix_iff hb he] at hpre
  have h15 := (len_lt_of_mem_build hb he).2
  rw [decodeSymbol_of_mem he]
  exact decodeWalk_short hb he hlt hall hpre.2 15 0 (Nat.zero_le _) (by omega)

end

/-- Settles O36: (a) is `build_not_prefix`; (b) and (c) are `exists_prefix_iff` at every value and at the Kraft sum itself.
Fifteen bits begin no longer codeword, so Decode raises on them where they begin with none. -/
theorem codeIsPrefixFree : Obligations.CodeIsPrefixFree := by
  refine fun lens tab hb => ⟨fun a b ha hb' hne => build_not_prefix hb ha hb' hne, fun hk p hp => ?_, fun hk => ?_,
    fun s p hp hs hno => ?_, build_eq_nil_of_zero hb⟩
  · obtain ⟨v, hv, rfl⟩ : ∃ v, v < 2 ^ 15 ∧ codeBits 15 v = p := hp ▸ exists_codeBits p
    obtain ⟨e, he, hpre⟩ := (exists_prefix_iff hb hv).mpr (by rwa [kraft_eq_KraftSum, hk])
    exact ⟨e, he, hpre, fun e' he' hpre' => build_prefix_unique hb he' he hpre' hpre⟩
  · refine ⟨codeBits 15 (KraftSum lens), codeBits_length _ _, fun e he hpre => ?_⟩
    have hlt := (exists_prefix_iff hb hk).mp ⟨e, he, hpre⟩
    rw [kraft_eq_KraftSum] at hlt
    exact lt_irrefl _ hlt
  · refine decodeSymbol_raises hb hs fun e he => ⟨hno e he, fun hpre => hno e he ?_⟩
    have hlen := hpre.length_le
    have h15 := (len_lt_of_mem_build hb he).2
    rw [CodeEntry.bits_length] at hlen
    rw [hpre.eq_of_length (by rw [CodeEntry.bits_length]; omega)]

/-! ## The canonical order -/

section
variable {lens : List CodeLen} {t : Table} {d e : CodeEntry}

/-- The codes of a length are consecutive in symbol order. -/
theorem canonicalCode_add (nc : Nat → Nat) (L : CodeLen) {k m : Nat} (h : k ≤ m) : canonicalCode lens nc m L =
    canonicalCode lens nc k L + ((lens.take m).drop k).countP fun l => l.toNat == L.toNat := by
  have hsplit : lens.take m = lens.take k ++ (lens.take m).drop k := by
    conv_lhs => rw [← List.take_append_drop k (lens.take m), List.take_take, Nat.min_eq_left h]
  rw [canonicalCode_toNat, canonicalCode_toNat, Nat.add_assoc, ← List.countP_append, ← hsplit]

/-- Of two codewords the shorter is below the longer cut to its length. -/
theorem build_code_lt_leading (hb : build lens = some t) (hd : d ∈ t) (he : e ∈ t) (hl : d.len < e.len) :
    d.code < e.code / 2 ^ (e.len - d.len) := by
  refine (build_code_bounds hb hd).2.trans_le ?_
  rw [Nat.le_div_iff_mul_le (by positivity)]
  exact (codes_le_firstCode lens hl).trans (build_code_bounds hb he).1

end

/-- Settles O37: two codes of one length are apart by the symbols of that length between them, the smaller one among them;
codes of different lengths are ordered by `build_code_lt_leading`. -/
theorem codesAreCanonicallyOrdered : Obligations.CodesAreCanonicallyOrdered := by
  refine fun lens tab hb a b ha hb' => ⟨fun hlen hsym => ?_, build_code_lt_leading hb ha hb'⟩
  obtain ⟨L, hget, -, hL, hcode⟩ := (mem_build_iff hb).mp ha
  obtain ⟨M, -, -, hM, hcode'⟩ := (mem_build_iff hb).mp hb'
  obtain rfl : L = M := BitVec.eq_of_toNat_eq (by omega)
  rw [canonicalCode_add _ L hsym.le, ← hcode, ← hL] at hcode'
  refine ⟨?_, hcode'⟩
  have hmem : L ∈ (lens.take b.sym).drop a.sym :=
    List.mem_of_getElem? (i := 0) (by rw [List.getElem?_drop, Nat.add_zero, List.getElem?_take_of_lt hsym, hget])
  have hpos : 0 < ((lens.take b.sym).drop a.sym).countP fun l => l.toNat == a.len :=
    List.countP_pos_iff.mpr ⟨L, hmem, beq_iff_eq.mpr hL.symm⟩
  omega

end Sys2Proof.Machine

namespace Sys2Proof.Machine

/-! ## BUILD and DECODE as commands, and Decode in the FSM -/

section
variable {lens : List CodeLen} {s : State}

/-- A fault entry of a command, which has left its queue. -/
theorem settleCommand_raise (k : ErrKind) (o : Nat) : ∃ t, settleCommand s (.error (.raise k o)) = .next t ∧
    Faulted k o (popCommand s) t :=
  ⟨_, rfl, faulted_takeFault k o (popCommand s)⟩

theorem exec_cmdBuild (hlen : lens.length ≤ 288) : exec (.cmdBuild lens) s =
    settleCommand s (buildTable lens s >>= fun t => .ok (answer (.table t) s)) := by
  rw [exec, execCmdBuild, checked, legalLens, decide_eq_true hlen]
  rfl

end

/-- Settles O31: the model's Kraft sum is the printed one (`kraft_eq_KraftSum`). -/
theorem buildCommandAnswersTable : Obligations.BuildCommandAnswersTable := by
  intro s lens hlen
  rw [exec_cmdBuild hlen]
  refine ⟨fun hk => ?_, fun hk => ?_⟩
  · have hb := build_of_le lens hk
    rw [buildTable_of_some s hb]
    obtain ⟨t, ht, hmoved, hwin, hans⟩ := answers_here_of_eq (s := s) (r := .table _) rfl
    exact ⟨t, _, ht, hmoved, hwin, hans, hb⟩
  · rw [buildTable_of_none s (build_of_lt lens hk)]
    exact settleCommand_raise _ _

section
variable {lens : List CodeLen} {s u : State}

theorem codewordBits_length {sym : Nat} {p : Bits} (hp : codewordBits lens sym = some p) :
    p.length = codeLength lens sym := by
  unfold codewordBits at hp
  cases hb : build lens with
  | none => rw [hb] at hp; cases hp
  | some t =>
    rw [hb] at hp
    obtain ⟨e, hf, rfl⟩ := Option.map_eq_some_iff.mp hp
    obtain ⟨L, hget, -, hlen, -⟩ := (mem_build_iff hb).mp (List.mem_of_find?_eq_some hf)
    obtain rfl : e.sym = sym := by simpa using List.find?_some hf
    rw [codeBits_length, codeLength, List.getD_eq_getElem?_getD, hget, hlen]
    rfl

/-- A symbol's codeword at the cursor: the cursor moves by exactly its bits. -/
theorem decodeWith_of_codewordBits {sym : Nat} {p : Bits} (hp : codewordBits lens sym = some p) (hs : bitsStand p s) :
    decodeWith lens s = .ok (sym, s.advance p.length) := by
  obtain ⟨t, ht⟩ := decodeWith_of_bitsStand hp hs
  have hends := decodeWith_ends (w := 0) (s := s) lens
  rw [ht] at hends ⊢
  cases hends with
  | ok h => rw [codewordBits_length hp, ← h.2]

theorem exec_cmdDecode (sel : TableSel) : exec (.cmdDecode sel) s =
    settleCommand s (decodeWith (s.tableLens sel) s >>= fun p => .ok (answer (.symbol p.1) p.2)) := rfl

/-- In the FSM, Decode is the first thing the step's fetch does. -/
theorem nextElement_of_decode_error {e : Stop} (hc : s.host.commands = [])
    (hst : s.fsm.state = .dynLens ∧ s.fsm.lensN.toNat ≠ totalLengths s ∧ lens = s.clLens ∨
      s.fsm.state = .bodySym ∧ lens = s.llLens ∨ s.fsm.state = .distSym ∧ lens = s.dLens)
    (h : decodeWith lens s = .error e) : nextElement s = some (.error e) := by
  have hover : sessionOver s = false := by
    obtain ⟨hst, -⟩ | ⟨hst, -⟩ | ⟨hst, -⟩ := hst <;> rw [sessionOver, hst] <;> rfl
  obtain ⟨hst, hn, rfl⟩ | ⟨hst, rfl⟩ | ⟨hst, rfl⟩ := hst
  · have hf : streamFormat s = some .clSym5 := by rw [streamFormat, hst]; exact if_neg hn
    rw [nextElement_stream hover hc hf, fetch, readWord, h]
    rfl
  · have hf : streamFormat s = some .llSym9 := by rw [streamFormat, hst]
    rw [nextElement_stream hover hc hf, fetch, readWord, h]
    rfl
  · have hf : streamFormat s = some .dSym5 := by rw [streamFormat, hst]
    rw [nextElement_stream hover hc hf, fetch, readWord, h]
    rfl

/-- A pending DECODE is fetched. -/
theorem nextElement_cmdDecode {c : Command} {rest : List Command} (hover : sessionOver s = false)
    (hc : s.host.commands = c :: rest) (hop : c.op = 0xD) : nextElement s = some (.ok (.cmdDecode c.port.table)) := by
  rw [nextElement_command hover (by simp [hc])]
  simp only [fetch, readWord, hc, hop, instrOf, State.port]
  rfl

/-- Where Decode stops, the step it runs in stops. -/
theorem Decoding.coreStep_error (hd : Decoding s u lens) {e : Stop} (h : decodeWith lens s = .error e) :
    (u = s ∧ coreStep s = settle s (.error e)) ∨ (u = popCommand s ∧ coreStep s = settleCommand s (.error e)) := by
  obtain ⟨hc, hu, hst⟩ | ⟨hover, hu, c, rest, hc, hop, rfl⟩ := hd
  · exact .inl ⟨hu, by rw [coreStep, nextElement_of_decode_error hc hst h]⟩
  · refine .inr ⟨hu, ?_⟩
    rw [coreStep, nextElement_cmdDecode hover hc hop]
    show exec _ s = _
    rw [exec_cmdDecode, h]
    rfl

theorem Decoding.state_ne_error (hd : Decoding s u lens) : s.fsm.state ≠ .error := by
  intro hst
  obtain ⟨-, -, h⟩ | ⟨hover, -⟩ := hd
  · simp [hst] at h
  · simp [sessionOver, hst] at hover

/-- The step that raises enters ERROR, so it is not the hold. -/
theorem Decoding.raises (hd : Decoding s u lens) (ha : s.host.actions = []) {k : ErrKind} {o : Nat}
    (h : decodeWith lens s = .error (.raise k o)) : inReq s = false ∧ ∃ t, step s = .next t ∧ Faulted k o u t := by
  have hcore : coreStep s = .next (takeFault k o u) := by
    obtain ⟨rfl, hcore⟩ | ⟨rfl, hcore⟩ := hd.coreStep_error h <;> exact hcore
  refine ⟨?_, _, (step_of_no_actions ha).trans hcore, faulted_takeFault k o u⟩
  obtain ⟨-, -, hhold⟩ | ⟨hreq, -⟩ := coreStep_input s
  · have hfsm := congrArg (fun t : State => t.fsm.state) (Host.Outcome.next.inj (hcore.symm.trans hhold))
    simp only [takeFault_fsm, holdInput_fsm] at hfsm
    exact absurd hfsm.symm hd.state_ne_error
  · exact hreq

theorem Decoding.withoutInput (hd : Decoding s u lens) : ∃ u', Decoding (withoutInput s) u' lens := by
  obtain ⟨hc, -, hst⟩ | ⟨hover, -, c, rest, hc, hop, rfl⟩ := hd
  · exact ⟨_, .inl ⟨hc, rfl, hst⟩⟩
  · exact ⟨_, .inr ⟨hover, rfl, c, rest, hc, hop, by cases c.port.table <;> rfl⟩⟩

theorem Decoding.coreStep_hold (hd : Decoding s u lens) (h : decodeWith lens s = .error .hold) :
    coreStep s = .next (holdInput s) := by
  obtain ⟨-, hcore⟩ | ⟨-, hcore⟩ := hd.coreStep_error h <;> exact hcore

/-- The step that holds would take the end of the input, so in_req is 1. -/
theorem Decoding.holds (hd : Decoding s u lens) (ha : s.host.actions = []) (hend : s.rd.srcEnd = false)
    (h : decodeWith lens s = .error .hold) : inReq s = true ∧ ∃ t, step s = .next t ∧ Held s t := by
  refine ⟨?_, _, (step_of_no_actions ha).trans (hd.coreStep_hold h), held_holdInput s⟩
  obtain ⟨u', hd'⟩ := hd.withoutInput
  rw [inReq, hd'.coreStep_hold (by rw [decodeWith_withoutInput, h]; rfl)]
  simp [holdInput, Machine.withoutInput, hend]

end

/-- Settles O32: `Decode` answers the codeword at the cursor, raises, or is short of bits, and where it stops, the step it
runs in stops (`Decoding.raises`, `Decoding.holds`). -/
theorem decodeAnswersHoldsOrRaises : Obligations.DecodeAnswersHoldsOrRaises := by
  refine ⟨fun s sel sym p hp hs => answers_of_eq ?_, fun s sel hb => ?_, fun s u lens ha hd hb => ?_,
    fun s u lens tab ha hd hb => ⟨?_, fun p hp hno => ?_, fun p e hp hall he hpre hne => ?_⟩⟩
  · rw [exec_cmdDecode, decodeWith_of_codewordBits hp hs]
    rfl
  · rw [exec_cmdDecode, decodeWith_of_none hb]
    exact settleCommand_raise _ _
  · exact hd.raises ha (decodeWith_of_none hb)
  · rintro rfl
    exact hd.raises ha ((decodeWith_of_some hb).trans (decodeSymbol_nil s))
  · exact hd.raises ha ((decodeWith_of_some hb).trans (decodeSymbol_raises hb hp hno))
  · have hshort := (decodeWith_of_some hb).trans (decodeSymbol_short hb hp hall he hpre hne)
    refine ⟨fun hend => ?_, fun hend => ?_⟩
    · rw [shortage_ended hend] at hshort
      exact hd.raises ha hshort
    · rw [shortage_open hend] at hshort
      exact hd.holds ha hend hshort

end Sys2Proof.Machine

namespace Sys2Proof.Machine

/-! ## The headers and the FSM's own steps -/

/-- What the step executes does not depend on the host's actions still to come. -/
theorem nextElement_actions (s : State) (acts : List HostAction) :
    nextElement { s with host.actions := acts } = nextElement s :=
  (nextElement_withoutInput { s with host.actions := acts }).symm.trans (nextElement_withoutInput s)

/-- The step after the host's `pass` is the core's. -/
theorem step_pass {s : State} {rest : List HostAction} (ha : s.host.actions = .pass :: rest) :
    step s = coreStep { s with host.actions := rest } := by
  simp only [step, ha]

/-- Settles O6: the fetch sees none of the host's actions, so it answers the same before and after a `pass`. -/
theorem stepRunsFetchedInstruction : Obligations.StepRunsFetchedInstruction := by
  intro s i h
  refine ⟨fun ha => step_of_fetch ha h, fun rest ha => ?_⟩
  rw [step_pass ha, coreStep, nextElement_actions, h]

/-! ### Headers -/

section
variable {s : State}

theorem exec_zlibHeader (cmf flg : BitVec 8) : exec (.zlibHeader cmf flg) s =
    if (cmf.toNat * 256 + flg.toNat) % 31 = 0 then .next { s.advance 16 with fsm.state := .hdr }
    else .next (takeFault .invalidZlibHeader (s.rd.offset + 16) s) := by
  simp only [exec, execZlibHeader, ne_eq, ite_not]
  split <;> rfl

theorem exec_storedHeader (len nlen : BitVec 16) : exec (.storedHeader len nlen) s =
    if len.toNat + nlen.toNat = 0xFFFF then .next { s.advance (alignPad s + 32) with
      fsm.storedRem := len, fsm.state := if len = 0 then .blockEnd else .storedCopy }
    else .next (takeFault .uncompressedLengthMismatch (s.rd.offset + (alignPad s + 32)) s) := by
  simp only [exec, execStoredHeader, ne_eq, ite_not]
  split <;> rfl

theorem exec_blockStored (f : BitVec 1) : exec (.blockStored f) s = .next (blockHeader f 0 .storedHdr s) := rfl

theorem exec_blockFixed (f : BitVec 1) : exec (.blockFixed f) s = .next (blockHeader f 1 .fixedSetup s) := rfl

theorem exec_blockDynamic (f : BitVec 1) : exec (.blockDynamic f) s = .next (blockHeader f 2 .dynHdr s) := rfl

/-- A header that completes moves past itself and writes registers of the FSM only. -/
theorem header_of_eq {o : Host.Outcome State Fault Refusal} {n : Nat} {f : FsmRegs}
    (h : o = .next { s.advance n with fsm := f }) :
    ∃ t, o = .next t ∧ Moved n s t ∧ t.fsm = f ∧ SameWindow s t ∧ t.tbl = s.tbl ∧ SameOutside s t :=
  ⟨_, h, rfl, rfl, ⟨rfl, rfl, fun _ => rfl⟩, rfl, rfl, rfl, rfl⟩

end

/-- Settles O9: the check on the two header bytes chooses between the two endings. -/
theorem zlibHeaderChecksModulo31 : Obligations.ZlibHeaderChecksModulo31 := by
  refine fun cmf flg s => ⟨fun h => header_of_eq ?_, fun h => ⟨_, ?_, faulted_takeFault _ _ s⟩⟩
  · rw [exec_zlibHeader, if_pos h]
    rfl
  · rw [exec_zlibHeader, if_neg h]

/-- Settles O10: each row of the statement is one block header. -/
theorem blockHeadersDispatch : Obligations.BlockHeadersDispatch := by
  intro f s i btype next hrow
  simp only [List.mem_cons, Prod.mk.injEq, List.not_mem_nil, or_false] at hrow
  obtain ⟨rfl, rfl, rfl⟩ | ⟨rfl, rfl, rfl⟩ | ⟨rfl, rfl, rfl⟩ := hrow
  · exact header_of_eq (exec_blockStored f)
  · exact header_of_eq (exec_blockFixed f)
  · exact header_of_eq (exec_blockDynamic f)

/-- Settles O12: the check of LEN against NLEN chooses between the two endings. -/
theorem storedHeaderChecksLength : Obligations.StoredHeaderChecksLength := by
  refine fun len nlen s => ⟨fun h => header_of_eq ?_, fun h => ⟨_, ?_, faulted_takeFault _ _ s⟩⟩
  · rw [exec_storedHeader, if_pos h]
    rfl
  · rw [exec_storedHeader, if_neg h]
    rfl

/-! ### The internal steps -/

section
variable {s : State}

/-- In these states the step of the core reads no element, unless a command is pending. -/
theorem coreStep_internalState (hc : s.host.commands = [])
    (hst : s.fsm.state ∈ [FsmState.idle, .fixedSetup, .dynClBuild, .dynBuild, .copy, .flush, .blockEnd, .done, .error]) :
    coreStep s = settle s (internalStep s) := by
  have hnext : nextElement s = none := by
    simp only [nextElement, hc, ne_eq, not_true_eq_false, if_false, streamFormat]
    simp only [List.mem_cons, List.not_mem_nil, or_false] at hst
    split
    · rfl
    · obtain h | h | h | h | h | h | h | h | h := hst <;> rw [h] <;> rfl
  rw [coreStep, hnext]

theorem build_fixedLl : (build fixedLl).isSome := by
  rw [build, if_neg (Nat.not_lt.mpr kraft_fixedLl.le)]
  rfl

theorem build_fixedD : (build fixedD).isSome := by
  rw [build, if_neg (Nat.not_lt.mpr kraft_fixedD.le)]
  rfl

theorem fixedLl_length : fixedLl.length = 288 := by
  simp only [fixedLl, List.length_append, List.length_replicate]

/-- FIXED_SETUP's tables are in place (43_block_fsm R731). -/
def withFixedTables (s : State) : State :=
  { s with tbl.llLen := fixedLl, tbl.llN := 288, tbl.dLen := fixedD, tbl.dN := 32 }

theorem withFixedTables_llLens (s : State) : (withFixedTables s).llLens = fixedLl :=
  List.take_of_length_le fixedLl_length.le

theorem withFixedTables_dLens (s : State) : (withFixedTables s).dLens = fixedD :=
  List.take_of_length_le List.length_replicate.le

/-- A setup step whose two length sets build does not raise. -/
theorem setup_of_builds {t u : State} (hll : (build t.llLens).isSome) (hd : (build t.dLens).isSome) :
    (buildTable t.llLens t >>= fun _ => buildTable t.dLens t >>= fun _ => .ok u) = (.ok u : Run State) := by
  obtain ⟨ll, hll⟩ := Option.isSome_iff_exists.mp hll
  obtain ⟨d, hd⟩ := Option.isSome_iff_exists.mp hd
  rw [buildTable_of_some t hll, buildTable_of_some t hd]
  rfl

/-- Both fixed codes build. -/
theorem withFixedTables_builds (s : State) :
    (build (withFixedTables s).llLens).isSome ∧ (build (withFixedTables s).dLens).isSome := by
  rw [withFixedTables_llLens, withFixedTables_dLens]
  exact ⟨build_fixedLl, build_fixedD⟩

theorem fixedSetup_eq (s : State) : fixedSetup s = .ok { withFixedTables s with fsm.state := .bodySym } := by
  obtain ⟨hll, hd⟩ := withFixedTables_builds s
  exact setup_of_builds hll hd

end

/-- Settles O38: the tables FIXED_SETUP installs are the printed ones, and they build. -/
theorem fixedSetupInstallsFixedTables : Obligations.FixedSetupInstallsFixedTables := by
  intro s ha hc hst
  have hstep : step s = .next { withFixedTables s with fsm.state := .bodySym } := by
    rw [step_of_no_actions ha, coreStep_internalState hc (by rw [hst]; decide), internalStep, hst]
    exact congrArg (settle s) (fixedSetup_eq s)
  obtain ⟨hll, hd⟩ := withFixedTables_builds s
  refine ⟨_, hstep, rfl, rfl, rfl, rfl, rfl, fixedLl_length, List.length_replicate, fun n hn => ?_, fun n hn => ?_, hll, hd,
    ⟨rfl, rfl, fun _ => rfl⟩, rfl, rfl, rfl⟩
  · show fixedLl[n]? = _
    rw [fixedLl_getElem?]
    grind
  · exact List.getElem?_replicate_of_lt hn

/-- Settles O44: the three branches of BLOCK_END. -/
theorem blockEndFlushesThenChooses : Obligations.BlockEndFlushesThenChooses := by
  intro s ha hc hst
  have hstep : step s = settle s (blockEnd s) := by
    rw [step_of_no_actions ha, coreStep_internalState hc (by rw [hst]; decide), internalStep, hst]
  rw [hstep, blockEnd]
  refine ⟨fun hleft => ?_, fun hnone hfinal => ?_, fun hnone hfinal => ?_⟩
  · rw [if_pos hleft]; rfl
  · rw [if_neg (by omega), if_pos hfinal]; rfl
  · rw [if_neg (by omega), if_neg (by rw [hfinal]; decide)]; rfl

/-- Settles O43: FLUSH hands over the byte of position `flushed` (`emitByte_of_read`), or waits. -/
theorem flushEmitsOneByte : Obligations.FlushEmitsOneByte := by
  intro s b ha hc hst hb
  have hvalid : outValid s = true := by rw [outValid, hst]; rfl
  have hstep : step s = settle s (flushByte s) := by
    rw [step_of_no_actions ha, coreStep_internalState hc (by rw [hst]; decide), internalStep, hst]
  have hlast : outLast s = (s.win.flushed + 1 == s.win.size) := by rw [outLast, hvalid, Bool.true_and]
  refine ⟨hvalid, ?_, by rw [hlast, beq_iff_eq], fun hready => ?_, fun hready => ⟨?_, ?_⟩⟩
  · rw [outByte, if_pos hvalid, hb]
    rfl
  · rw [hstep, flushByte, if_pos hready, emitByte_of_read hb, hlast]
    exact ⟨handOver b s, rfl, rfl, rfl, rfl, rfl, rfl, rfl, fun _ => rfl, rfl, rfl⟩
  · rw [hstep, flushByte, hready]
    rfl
  · rw [waitOut, hvalid, hready]
    rfl

/-! ### The states in which no step runs -/

section
variable {s : State}

/-- In DONE and ERROR no step runs, whatever command is pending. -/
theorem coreStep_sessionOver (hst : s.fsm.state = .done ∨ s.fsm.state = .error) : coreStep s = .next s := by
  have hover : sessionOver s = true := by
    obtain hst | hst := hst <;> rw [sessionOver, hst] <;> rfl
  have hinternal : internalStep s = .ok s := by
    obtain hst | hst := hst <;> rw [internalStep, hst]
  rw [coreStep, nextElement, if_pos hover]
  exact congrArg (settle s) hinternal

theorem coreStep_idle (hst : s.fsm.state = .idle) (hc : s.host.commands = []) : coreStep s = .next s := by
  rw [coreStep_internalState hc (by rw [hst]; decide), internalStep, hst]
  rfl

/-- A step that changes nothing, whatever the host has to give, requests no byte. -/
theorem inReq_of_coreStep_same (h : coreStep (withoutInput s) = .next (withoutInput s)) : inReq s = false := by
  rw [inReq, h]
  exact Bool.not_and_self _

theorem inReq_sessionOver (hst : s.fsm.state = .done ∨ s.fsm.state = .error) : inReq s = false :=
  inReq_of_coreStep_same (coreStep_sessionOver hst)

/-- What the host can change but by a reset, once a session is over: its own side, and the end flag. -/
theorem hostAction_sessionOver (hst : s.fsm.state = .done ∨ s.fsm.state = .error) {a : HostAction} (ha : a ≠ .reset) :
    ∃ host ended, host.emitted = s.host.emitted ∧ hostAction a s = { s with host := host, rd.srcEnd := ended } := by
  have hbusy : s.fsm.state ≠ .idle := by
    obtain hst | hst := hst <;> rw [hst] <;> nofun
  have hsame : ∃ host ended, host.emitted = s.host.emitted ∧ s = { s with host := host, rd.srcEnd := ended } :=
    ⟨s.host, s.rd.srcEnd, rfl, rfl⟩
  cases a with
  | write r v => rw [hostAction, writeReg_busy hbusy]; exact hsame
  | setZlib b => rw [hostAction, writeZlib_busy hbusy]; exact hsame
  | start => rw [hostAction, startSession_busy hbusy]; exact hsame
  | reset => exact absurd rfl ha
  | deliver b =>
    rw [hostAction, deliverByte, inReq_sessionOver hst]
    exact ⟨{ s.host with source := s.host.source ++ [b] }, s.rd.srcEnd, rfl, rfl⟩
  | endInput => exact ⟨s.host, true, rfl, rfl⟩
  | ready b => exact ⟨{ s.host with sinkReady := b }, s.rd.srcEnd, rfl, rfl⟩
  | issue c => exact ⟨{ s.host with commands := s.host.commands ++ [c] }, s.rd.srcEnd, rfl, rfl⟩
  | pass => exact hsame

/-- A step once a session is over. -/
theorem step_sessionOver (hst : s.fsm.state = .done ∨ s.fsm.state = .error) (hr : resetting s = false) :
    ∃ host ended, host.emitted = s.host.emitted ∧ step s = .next { s with host := host, rd.srcEnd := ended } := by
  obtain ⟨rest, hs⟩ | ⟨a, rest, ha, hs⟩ := step_cases s <;> rw [hs]
  · exact ⟨{ s.host with actions := rest }, s.rd.srcEnd, rfl, coreStep_sessionOver hst⟩
  · have hne : a ≠ .reset := by rintro rfl; simp [resetting, ha] at hr
    obtain ⟨host, ended, hem, h⟩ := hostAction_sessionOver (s := { s with host.actions := rest }) hst hne
    exact ⟨host, ended, hem, congrArg _ h⟩

end

/-- Settles O50: in IDLE, DONE and ERROR the core has no step to run, and the host's actions reach nothing of the core but the
end flag. -/
theorem idleAndFinishedSessionsStay : Obligations.IdleAndFinishedSessionsStay := by
  refine ⟨fun s hst ha hc => ⟨?_, inReq_of_coreStep_same (coreStep_idle hst hc)⟩, fun s hst hr => ?_⟩
  · rw [step_of_no_actions ha, coreStep_idle hst hc]
  · obtain ⟨host, ended, hem, hstep⟩ := step_sessionOver hst hr
    refine ⟨_, hstep, rfl, rfl, rfl, rfl, rfl, rfl, inReq_sessionOver hst, ?_, hem, fun ha => ?_⟩
    · obtain hst | hst := hst <;> rw [outValid, hst] <;> rfl
    · rw [step_of_no_actions ha, coreStep_sessionOver hst] at hstep
      exact (Host.Outcome.next.inj hstep).symm

end Sys2Proof.Machine

namespace Sys2Proof.Machine

/-! ## Fields cut short

`Ensure` looks at one field at a time, so a word is cut short at the first of its fields that is missing; the fields before
it have been read, and the step ends with a shortage at the cursor past them. -/

section
variable {s : State}

theorem takeField_short {n : Nat} (h : s.rd.readbits < s.rd.offset + n) : takeField n s = .error (shortage s) := by
  rw [takeField, ensure_short h]
  rfl

/-- The field `m` bits on is missing. -/
theorem takeField_advance_short {m n : Nat} (h : s.rd.readbits < s.rd.offset + m + n) :
    takeField n (s.advance m) = .error (shortage (s.advance m)) :=
  takeField_short h

theorem align_short (h : s.rd.readbits < s.rd.offset + alignPad s) : align s = .error (shortage s) := by
  rw [align, discard, ensure_short h]
  rfl

theorem align_here (h : s.rd.offset + alignPad s ≤ s.rd.readbits) : align s = .ok (s.advance (alignPad s)) := by
  rw [align, discard_eq, if_pos h]

/-- The fields that the word of a format is read in (30_encoding R301-R305): the bits before each in the word, and its width. -/
def formatFields (s : State) : Format → List (Nat × Nat)
  | .zlibHdr16 => [(0, 8), (8, 8)]
  | .blockHdr3 => [(0, 1), (1, 2)]
  | .storedHdr32 => [(0, alignPad s), (alignPad s, 16), (alignPad s + 16, 16)]
  | .byte8 => [(0, 8)]
  | .dynHdr14 => [(0, 5), (5, 5), (10, 4)]
  | .cll3 => [(0, 3)]
  | .clSym5 | .llSym9 | .dSym5 | .cmd4 => []

/-- A word is cut short at its first missing field. -/
theorem readWord_short {f : Format} {before n : Nat} (hf : (before, n) ∈ formatFields s f)
    (hthere : s.rd.offset + before ≤ s.rd.readbits) (hmiss : s.rd.readbits < s.rd.offset + before + n) :
    readWord f s = .error (shortage (s.advance before)) := by
  cases f with
  | clSym5 | llSym9 | dSym5 | cmd4 => cases hf
  | byte8 | cll3 =>
    simp only [formatFields, List.mem_singleton, Prod.mk.injEq] at hf
    obtain ⟨rfl, rfl⟩ := hf
    rw [readWord, takeField_short hmiss]
    rfl
  | zlibHdr16 | blockHdr3 =>
    simp only [formatFields, List.mem_cons, Prod.mk.injEq, List.not_mem_nil, or_false] at hf
    obtain ⟨rfl, rfl⟩ | ⟨rfl, rfl⟩ := hf
    · rw [readWord, takeField_short hmiss]
      rfl
    · simp only [readWord, takeField_here hthere, bind, Except.bind, takeField_advance_short hmiss]
  | dynHdr14 =>
    simp only [formatFields, List.mem_cons, Prod.mk.injEq, List.not_mem_nil, or_false] at hf
    obtain ⟨rfl, rfl⟩ | ⟨rfl, rfl⟩ | ⟨rfl, rfl⟩ := hf
    · rw [readWord, takeField_short hmiss]
      rfl
    · simp only [readWord, takeField_here hthere, bind, Except.bind, takeField_advance_short hmiss]
    · simp only [readWord, takeField_here (s := s) (n := 5) (by omega), bind, Except.bind,
        takeField_advance (s := s) (m := 5) (n := 5) hthere, takeField_advance_short hmiss]
  | storedHdr32 =>
    simp only [formatFields, List.mem_cons, Prod.mk.injEq, List.not_mem_nil, or_false] at hf
    obtain ⟨rfl, rfl⟩ | ⟨rfl, rfl⟩ | ⟨rfl, rfl⟩ := hf
    · rw [readWord, align_short hmiss]
      rfl
    · simp only [readWord, align_here hthere, bind, Except.bind, takeField_advance_short hmiss]
    · simp only [readWord, align_here (s := s) (by omega), bind, Except.bind,
        takeField_advance (s := s) (m := alignPad s) (n := 16) (by omega), takeField_advance_short hmiss]

/-- A fetch that stops ends the step. -/
theorem coreStep_fetch_error {e : Stop} (h : nextElement s = some (.error e)) : coreStep s = settle s (.error e) := by
  rw [coreStep, h]

/-- While a fetch holds, in_req is 1, whatever the host has to give. -/
theorem inReq_of_fetch_hold (hend : s.rd.srcEnd = false) (h : nextElement s = some (.error .hold)) : inReq s = true := by
  have hstep : coreStep (withoutInput s) = .next (holdInput (withoutInput s)) :=
    coreStep_fetch_error ((nextElement_withoutInput s).trans h)
  rw [inReq, hstep]
  simp [holdInput, withoutInput, hend]

/-- A fetch that is short of bits, in the terms of the statement. -/
theorem step_of_fetch_shortage {m : Nat} (ha : s.host.actions = [])
    (h : nextElement s = some (.error (shortage (s.advance m)))) :
    (s.rd.srcEnd = true → inReq s = false ∧ ∃ t, step s = .next t ∧ Faulted .endOfStream (s.rd.offset + m) s t) ∧
    (s.rd.srcEnd = false → inReq s = true ∧ ∃ t, step s = .next t ∧ Held s t) := by
  obtain ⟨hraise, hhold⟩ := settle_shortage s m
  rw [step_of_no_actions ha, coreStep_fetch_error h]
  refine ⟨fun hend => ⟨inReq_of_srcEnd hend, hraise hend⟩, fun hend => ⟨inReq_of_fetch_hold hend ?_, hhold hend⟩⟩
  rw [h, shortage_open (s := s.advance m) hend]

/-- A word of the stream that is cut short ends the step that reads it. -/
theorem nextElement_short {f : Format} {before n : Nat} (hc : s.host.commands = []) (hf : streamFormat s = some f)
    (hfield : (before, n) ∈ formatFields s f) (hthere : s.rd.offset + before ≤ s.rd.readbits)
    (hmiss : s.rd.readbits < s.rd.offset + before + n) :
    nextElement s = some (.error (shortage (s.advance before))) := by
  rw [nextElement_stream (streamFormat_some hf).2.1 hc hf, fetch, readWord_short hfield hthere hmiss]
  rfl

end

/-- Settles O28: each row is a field of the format its state reads; the fetch stops there (`nextElement_short`), and its
shortage ends the step. -/
theorem truncatedFieldsHoldOrRaise : Obligations.TruncatedFieldsHoldOrRaise := by
  intro s state before n hrow ha hc hst hthere hmiss
  have hfield : ∃ f, streamFormat s = some f ∧ (before, n) ∈ formatFields s f := by
    rw [streamFormat, hst]
    simp only [List.mem_cons, Prod.mk.injEq, List.not_mem_nil, or_false] at hrow
    obtain ⟨rfl, hrow⟩ | ⟨rfl, hrow⟩ | ⟨rfl, hrow⟩ | ⟨rfl, hrow⟩ | ⟨rfl, hrow⟩ | ⟨rfl, hrow⟩ | ⟨rfl, hrow⟩ | ⟨rfl, hrow⟩ |
      ⟨rfl, hrow⟩ | ⟨rfl, hrow⟩ | ⟨rfl, hrow⟩ | ⟨rfl, hrow⟩ := hrow
    all_goals exact ⟨_, rfl, by simp [formatFields, alignPad, hrow]⟩
  obtain ⟨f, hf, hfield⟩ := hfield
  exact step_of_fetch_shortage ha (nextElement_short hc hf hfield hthere hmiss)

end Sys2Proof.Machine

namespace Sys2Proof.Machine

/-! ## Every session ends

The bits a session can still read are those in its buffer and those its source holds. A step that consumes some has fewer
left; a step that consumes none works off what the session has decided already (`work`), or is a hold, which uses up an
answer of the host. So the three numbers fall lexicographically until DONE or ERROR. -/

/-- The bits the session can still read. -/
def bitsLeft (s : State) : Nat := s.rd.readbits + 8 * s.host.source.length - s.rd.offset

/-- The answers the host has left for a hold: the bytes of its source and the end of the input. -/
def answersLeft (s : State) : Nat := s.host.source.length + (!s.rd.srcEnd).toNat

/-- A bound on the steps from a state of the FSM to the next step that must read a bit, where no FLUSH comes between; a copied
byte counts three times, since it may have to be flushed. -/
def stateWork (f : FsmRegs) : FsmState → Nat
  | .dynClBuild => 3
  | .dynLens => 2
  | .dynBuild | .fixedSetup | .lenExtra | .blockEnd => 1
  | .distExtra => 3 * f.lengthR.toNat + 1
  | .copy => 3 * f.copyRem.toNat
  | .idle | .zhdr | .hdr | .storedHdr | .storedCopy | .dynHdr | .dynCll | .bodySym | .distSym | .flush | .done | .error => 0

/-- What is left to do without reading a bit: the state's own steps, the bytes to flush, and entering FLUSH. -/
def work (s : State) : Nat :=
  stateWork s.fsm (resumeState s) + 2 * unflushed s + if s.fsm.state = .flush then 0 else 1

/-- The states a step goes on to, FLUSH apart. -/
def Working (st : FsmState) : Prop := st ≠ .idle ∧ st ≠ .flush

/-- A step that completes: the host has only been handed a byte, if anything; the session is not back in IDLE; and bits have
been consumed or work done. -/
structure Progress (s t : State) : Prop where
  host : t.host = { s.host with emitted := t.host.emitted }
  started : resumeState t ≠ .idle
  moved : ∃ n, Moved n s t ∧ (0 < n ∨ work t < work s)

/-- Every next state of an outcome is in ERROR, or the hold's, or a step on. -/
def Progresses (s : State) (o : Host.Outcome State Fault Refusal) : Prop :=
  ∀ t, o = .next t → t.fsm.state = .error ∨ (s.rd.srcEnd = false ∧ t = holdInput s) ∨ Progress s t

/-! ### Rules -/

section
variable {w n : Nat} {s t : State} {st st' : FsmState}

theorem settle_progresses {r : Run State} (h : Ends w s (Progress s) r) : Progresses s (settle s r) := by
  intro t ht
  rcases settle_next ht with rfl | ⟨rfl, rfl⟩ | ⟨k, o, rfl, rfl⟩
  · cases h with | ok h => exact .inr (.inr h)
  · cases h with | stop h => exact .inr (.inl ⟨h, rfl⟩)
  · exact .inl rfl

theorem completes_progresses (h : Progress s t) : Progresses s (settle s (.ok t)) :=
  settle_progresses (w := 0) (.ok h)

theorem raise_progresses (k : ErrKind) (o : Nat) : Progresses s (settle s (.error (.raise k o))) := by
  intro t ht
  obtain rfl := Host.Outcome.next.inj ht
  exact .inl rfl

theorem Working.ite {c : Prop} [Decidable c] (h : Working st) (h' : Working st') : Working (if c then st else st') := by
  split
  · exact h
  · exact h'

theorem Working.resumeState_ne_idle (h : Working st) (hst : t.fsm.state = st) : resumeState t ≠ .idle := by
  rw [resumeState_of_ne hst h.2]
  exact h.1

/-- A step that consumes bits and goes on to a working state. -/
theorem Progress.past (hn : 0 < n) (hrd : Moved n s t) (hhost : t.host = s.host) (hst : Working t.fsm.state) :
    Progress s t where
  host := by rw [hhost]
  started := hst.resumeState_ne_idle rfl
  moved := ⟨n, hrd, .inl hn⟩

/-- A step that consumes bits and ends in FlushCheck. -/
theorem Progress.past_flushCheck (hn : 0 < n) (hrd : Moved n s t) (hhost : t.host = s.host) (hst : Working st) :
    Progress s (flushCheck st t) where
  host := by rw [flushCheck_host, hhost]
  started := by
    rw [resumeState_flushCheck hst.2]
    exact hst.1
  moved := ⟨n, by rw [Moved, flushCheck_rd]; exact hrd, .inl hn⟩

theorem work_of_ne (hst : s.fsm.state = st) (hne : st ≠ .flush) :
    work s = stateWork s.fsm st + 2 * unflushed s + 1 := by
  rw [work, resumeState_of_ne hst hne, if_neg (hst ▸ hne)]

/-- A step that goes from one working state to another with less to do. -/
theorem Progress.lower (hrd : Moved n s t) (hhost : t.host = s.host) (hwin : t.win = s.win) (hst : s.fsm.state = st)
    (hne : st ≠ .flush) (hst' : t.fsm.state = st') (hw : Working st')
    (hlt : stateWork t.fsm st' < stateWork s.fsm st) : Progress s t where
  host := by rw [hhost]
  started := hw.resumeState_ne_idle hst'
  moved := by
    refine ⟨n, hrd, .inr ?_⟩
    rw [work_of_ne hst hne, work_of_ne hst' hw.2, unflushed, unflushed, hwin]
    omega

end

/-! ### The elements of the stream -/

section
variable (s : State)

/-- A decoded symbol has a codeword, and so consumes bits. -/
theorem decodeWith_consumes (lens : List CodeLen) :
    Ends 0 s (fun p => 0 < codeLength lens p.1) (decodeWith lens s) := by
  have hends := decodeWith_ends (w := 0) (s := s) lens
  have hcases := decodeWith_cases lens s
  generalize decodeWith lens s = r at hends hcases
  cases hends with
  | ok _ =>
    obtain ⟨sym, -, hpos, -, h⟩ | ⟨k, -, h⟩ | ⟨-, h⟩ := hcases
    · cases h
      exact .ok hpos
    · cases h
    · cases h
  | stop h => exact .stop h

theorem readWord_consumes {f : Format} (hf : f ≠ .cmd4) : Ends 0 s (fun v => 0 < wordWidth f v s) (readWord f s) := by
  cases f with
  | zlibHdr16 | blockHdr3 | byte8 | dynHdr14 | cll3 => exact (readWord_ends s _).imp fun _ _ => Nat.succ_pos _
  | storedHdr32 => exact (readWord_ends s .storedHdr32).imp fun _ _ => Nat.succ_pos _
  | clSym5 => exact (decodeWith_consumes s s.clLens).bind fun _ h => .ok h
  | llSym9 => exact (decodeWith_consumes s s.llLens).bind fun _ h => .ok h
  | dSym5 => exact (decodeWith_consumes s s.dLens).bind fun _ h => .ok h
  | cmd4 => exact absurd rfl hf

/-- The instruction of a fetched element has a word of at least one bit. -/
theorem fetch_consumes {f : Format} (hf : f ≠ .cmd4) :
    Ends 0 s (fun i => (encode i).fmt ≠ .cmd4 ∧ 0 < instrWidth i s) (fetch f s) :=
  (readWord_consumes s hf).bind fun v hv => (instrOf_ends s f v).imp fun i ⟨hfmt, hw⟩ => by
    rw [instrWidth, hfmt, hw]
    exact ⟨hf, hv⟩

theorem repeat_progress {n : Nat} (hn : 0 < n) (row : Nat × Nat) (v : State → CodeLen) :
    Ends n s (Progress s) (takeExtra row (s.advance n) >>= fun p => repeatLength p.1 (v p.2) p.2) := by
  refine (takeExtra_ends n row id).bind ?_
  rintro ⟨r, _⟩ ⟨hroom, rfl⟩
  obtain ⟨-, h⟩ | ⟨-, h⟩ := repeatLength_cases r (v (s.advance (n + row.1))) (s.advance (n + row.1)) <;> rw [h]
  · exact .stop ⟨Nat.le_add_right _ _, fun _ => hroom⟩
  · exact .ok (.past (Nat.add_pos_left hn _) rfl rfl ⟨nofun, nofun⟩)

/-- An element of the stream, outside the two states that read the extra bits of a symbol kept before. -/
theorem exec_progresses {i : Instr} (hfmt : (encode i).fmt ≠ .cmd4) (hw : 0 < instrWidth i s)
    (hlen : s.fsm.state ≠ .lenExtra) (hdist : s.fsm.state ≠ .distExtra) : Progresses s (exec i s) := by
  have hlength : ∀ sym, 0 < codeLength s.llLens sym → Progresses s (lengthMeaning sym s) := fun sym hpos => by
    rw [lengthMeaning, if_neg hlen]
    exact completes_progresses (.past hpos rfl rfl ⟨nofun, nofun⟩)
  have hdistance : ∀ sym, 0 < codeLength s.dLens sym → Progresses s (distMeaning sym s) := fun sym hpos => by
    rw [distMeaning, if_neg hdist]
    exact completes_progresses (.past hpos rfl rfl ⟨nofun, nofun⟩)
  cases i with
  | zlibHeader cmf flg =>
    exact settle_progresses (.ite (fun _ => .raise_past _ s 16) fun _ => .ok (.past hw rfl rfl ⟨nofun, nofun⟩))
  | blockStored f | blockFixed f | blockDynamic f => exact completes_progresses (.past hw rfl rfl ⟨nofun, nofun⟩)
  | storedHeader len nlen =>
    exact settle_progresses (.ite (fun _ => .raise_past _ s _) fun _ => .ok (.past hw rfl rfl
      (.ite ⟨nofun, nofun⟩ ⟨nofun, nofun⟩)))
  | storedByte b =>
    exact completes_progresses (.past_flushCheck hw rfl rfl (.ite ⟨nofun, nofun⟩ ⟨nofun, nofun⟩))
  | dynHeader hlit hdist hclen => exact completes_progresses (.past hw rfl rfl ⟨nofun, nofun⟩)
  | cll len =>
    refine settle_progresses (w := 3) ?_
    split
    · exact .fault _
    · exact .ok (.past hw rfl rfl (.ite ⟨nofun, nofun⟩ ⟨nofun, nofun⟩))
  | clLit c =>
    exact settle_progresses (w := 0) (.ite (fun _ => .ok (.past hw rfl rfl ⟨nofun, nofun⟩)) fun _ => .fault _)
  | rep16 =>
    exact settle_progresses (.ite (fun _ => .raise_past _ s _) fun _ => repeat_progress s hw (2, 3) previousLength)
  | zero17 => exact settle_progresses (repeat_progress s hw (3, 3) fun _ => 0)
  | zero18 => exact settle_progresses (repeat_progress s hw (7, 11) fun _ => 0)
  | blockInvalid | clInvalid19 | clInvalid20 | clInvalid24 | llInvalid | dInvalid => exact raise_progresses _ _
  | lit b => exact completes_progresses (.past_flushCheck hw rfl rfl ⟨nofun, nofun⟩)
  | eob => exact completes_progresses (.past hw rfl rfl ⟨nofun, nofun⟩)
  | len257 | len258 | len259 | len260 | len261 | len262 | len263 | len264 | len265 | len266 | len267 | len268 | len269
  | len270 | len271 | len272 | len273 | len274 | len275 | len276 | len277 | len278 | len279 | len280 | len281 | len282
  | len283 | len284 | len285 => exact hlength _ hw
  | dist0 | dist1 | dist2 | dist3 | dist4 | dist5 | dist6 | dist7 | dist8 | dist9 | dist10 | dist11 | dist12 | dist13
  | dist14 | dist15 | dist16 | dist17 | dist18 | dist19 | dist20 | dist21 | dist22 | dist23 | dist24 | dist25 | dist26
  | dist27 | dist28 | dist29 => exact hdistance _ hw
  | cmdTakeField | cmdTakeCode | cmdPeekField | cmdPeekCode | cmdDiscard | cmdAlign | cmdStartsWith | cmdHasBits
  | cmdAppendLiteral | cmdAppendBackref | cmdLastN | cmdWinRead | cmdBuild | cmdDecode | cmdReserved =>
    exact absurd rfl hfmt

end

/-! ### The steps that need read no bit -/

section
variable {s : State}

/-- LEN_EXTRA: a length may have no extra bits. -/
theorem readLength_progress (hst : s.fsm.state = .lenExtra) (sym : Nat) : Ends 0 s (Progress s) (readLength sym s) := by
  unfold readLength
  generalize lengthRow sym = row
  refine (takeExtra_ends (s := s) 0 row id).bind ?_
  rintro ⟨len, _⟩ ⟨-, rfl⟩
  exact .ok (.lower rfl rfl rfl hst nofun rfl ⟨nofun, nofun⟩ (Nat.zero_lt_one))

/-- DIST_EXTRA: so may a distance. -/
theorem readDistance_progress (hst : s.fsm.state = .distExtra) (sym : Nat) :
    Ends 0 s (Progress s) (readDistance sym s) := by
  unfold readDistance
  generalize distRow sym = row
  refine (takeExtra_ends (s := s) 0 row id).bind ?_
  rintro ⟨dist, _⟩ ⟨hroom, rfl⟩
  refine .ite (fun _ => .stop ⟨Nat.le_add_right _ _, fun _ => hroom⟩) fun _ => .ok ?_
  exact .lower rfl rfl rfl hst nofun rfl ⟨nofun, nofun⟩ (Nat.lt_succ_self _)

theorem setup_progress {t u : State} {ll d : List CodeLen} (ht : t.rd = s.rd) (hu : Progress s u) :
    Ends 0 s (Progress s) (buildTable ll t >>= fun _ => buildTable d t >>= fun _ => .ok u) :=
  (buildTable_ends ll ht).bind fun _ _ => (buildTable_ends d ht).bind fun _ _ => .ok hu

theorem work_flushCheck_le {t : State} {next : FsmState} (hne : next ≠ .flush) :
    work (flushCheck next t) ≤ stateWork t.fsm next + 2 * unflushed t + 1 := by
  have hsame : stateWork (flushCheck next t).fsm next = stateWork t.fsm next := by
    unfold flushCheck
    split <;> rfl
  rw [work, resumeState_flushCheck hne, hsame, unflushed, flushCheck_win, unflushed]
  split <;> omega

/-- A step that adds a byte to the chunk and ends in FlushCheck, for three units of the state's own work. -/
theorem Progress.copied {t : State} {next : FsmState} (hrd : t.rd = s.rd) (hhost : t.host = s.host)
    (hwin : t.win.size = s.win.size + 1 ∧ t.win.flushed = s.win.flushed) (hst : s.fsm.state = .copy) (hnext : Working next)
    (hlt : stateWork t.fsm next + 3 ≤ stateWork s.fsm .copy) : Progress s (flushCheck next t) where
  host := by rw [flushCheck_host, hhost]
  started := by
    rw [resumeState_flushCheck hnext.2]
    exact hnext.1
  moved := by
    refine ⟨0, by rw [Moved, flushCheck_rd]; exact hrd, .inr ?_⟩
    have hle := work_flushCheck_le (t := t) hnext.2
    have hchunk : unflushed t ≤ unflushed s + 1 := by
      rw [unflushed, unflushed, hwin.1, hwin.2]
      omega
    rw [work_of_ne hst nofun]
    omega

/-- COPY: a byte leaves the count and joins the chunk. -/
theorem copyByte_progress (hst : s.fsm.state = .copy) (hrem : 1 ≤ s.fsm.copyRem.toNat) :
    Ends 0 s (Progress s) (copyByte s) := by
  refine (appendBackref_ends _).bind ?_
  rintro _ ⟨b, rfl⟩
  have hpred : (s.fsm.copyRem - 1).toNat = s.fsm.copyRem.toNat - 1 := by
    rw [BitVec.toNat_sub_of_le (by rw [BitVec.le_def]; simpa using hrem)]
    rfl
  refine .ok (.copied rfl rfl ⟨rfl, rfl⟩ hst (.ite ⟨nofun, nofun⟩ ⟨nofun, nofun⟩) ?_)
  split
  · show 0 + 3 ≤ 3 * s.fsm.copyRem.toNat
    omega
  · show 3 * (s.fsm.copyRem - 1).toNat + 3 ≤ 3 * s.fsm.copyRem.toNat
    omega

/-- FLUSH: a byte leaves the chunk, and the state FLUSH returns to stays. -/
theorem handOver_progress (hst : s.fsm.state = .flush) (hlt : s.win.flushed < s.win.size) (hret : Resumable s.fsm.retR)
    (b : Byte) : Progress s (handOver b s) := by
  have hresume : resumeState (handOver b s) = s.fsm.retR := by
    by_cases hlast : s.win.flushed + 1 = s.win.size
    · exact resumeState_of_ne (if_pos hlast) hret.ne_flush
    · exact resumeState_flush (if_neg hlast)
  refine ⟨rfl, ?_, 0, rfl, .inr ?_⟩
  · rw [hresume]
    obtain h | h | h | h := hret <;> rw [h] <;> nofun
  · have hstate : stateWork (handOver b s).fsm s.fsm.retR = stateWork s.fsm s.fsm.retR := rfl
    have hchunk : unflushed (handOver b s) + 1 = unflushed s := by
      show s.win.size - (s.win.flushed + 1) + 1 = s.win.size - s.win.flushed
      omega
    rw [work, work, hresume, resumeState_flush hst, hstate, if_pos hst]
    split <;> omega

/-- A step that reads no element, in a state where the FSM has one. -/
theorem internalStep_progress (hs : Session s) (hready : s.host.sinkReady = true) (hidle : s.fsm.state ≠ .idle)
    (hover : sessionOver s = false) (hf : streamFormat s = none) (hlen : s.fsm.state ≠ .lenExtra)
    (hdist : s.fsm.state ≠ .distExtra) : Ends 0 s (Progress s) (internalStep s) := by
  cases hst : s.fsm.state <;> simp only [internalStep, hst]
  case fixedSetup => exact setup_progress rfl (.lower (n := 0) rfl rfl rfl hst nofun rfl ⟨nofun, nofun⟩ Nat.zero_lt_one)
  case dynClBuild =>
    exact (buildTable_ends (s := s) _ rfl).bind fun _ _ =>
      .ok (.lower (n := 0) rfl rfl rfl hst nofun rfl ⟨nofun, nofun⟩ (Nat.lt_succ_self 2))
  case dynLens => exact .ok (.lower (n := 0) rfl rfl rfl hst nofun rfl ⟨nofun, nofun⟩ (Nat.lt_succ_self 1))
  case dynBuild => exact setup_progress rfl (.lower (n := 0) rfl rfl rfl hst nofun rfl ⟨nofun, nofun⟩ Nat.zero_lt_one)
  case copy => exact copyByte_progress hst (hs.copying (resumeState_of_ne hst nofun)).1
  case flush =>
    obtain ⟨hpos, -, hret⟩ := hs.flushing hst
    rw [flushByte, if_pos hready, emitByte]
    exact (winByte_ends _).bind fun b _ => .ok (handOver_progress hst (Nat.lt_of_sub_pos hpos) hret b)
  case blockEnd =>
    refine .ite (fun _ => .ok ⟨rfl, nofun, 0, rfl, .inr ?_⟩) fun _ => .ite (fun _ => .ok ?_) fun _ => .ok ?_
    · rw [work_of_ne hst nofun]
      exact Nat.lt_succ_self _
    · exact .lower (n := 0) rfl rfl rfl hst nofun rfl ⟨nofun, nofun⟩ Nat.zero_lt_one
    · exact .lower (n := 0) rfl rfl rfl hst nofun rfl ⟨nofun, nofun⟩ Nat.zero_lt_one
  case idle => exact absurd hst hidle
  case lenExtra => exact absurd hst hlen
  case distExtra => exact absurd hst hdist
  case done | error => simp [sessionOver, hst] at hover
  case zhdr | hdr | storedHdr | storedCopy | dynHdr | dynCll | bodySym | distSym => simp [streamFormat, hst] at hf

/-! ### The step of the core -/

/-- A fetched element is run, or its fetch ends the step. -/
theorem coreStep_progresses_of_element {P : Instr → Prop} {r : Run Instr} (hn : nextElement s = some r)
    (h : Ends 0 s P r) (hexec : ∀ i, P i → Progresses s (exec i s)) : Progresses s (coreStep s) := by
  rw [coreStep, hn]
  cases h with
  | ok hi => exact hexec _ hi
  | stop he => exact settle_progresses (.stop he)

theorem coreStep_progresses (hs : Session s) (hready : s.host.sinkReady = true) (hidle : s.fsm.state ≠ .idle)
    (hover : sessionOver s = false) : Progresses s (coreStep s) := by
  by_cases hlen : s.fsm.state = .lenExtra
  · refine coreStep_progresses_of_element (nextElement_lenExtra hs.noCommands hlen) (fetchLength_ends s) ?_
    rintro i ⟨sym, hi⟩
    rw [hi, lengthMeaning, if_pos hlen]
    exact settle_progresses (readLength_progress hlen sym)
  by_cases hdist : s.fsm.state = .distExtra
  · refine coreStep_progresses_of_element (nextElement_distExtra hs.noCommands hdist) (fetchDistance_ends s) ?_
    rintro i ⟨sym, hi⟩
    rw [hi, distMeaning, if_pos hdist]
    exact settle_progresses (readDistance_progress hdist sym)
  cases hf : streamFormat s with
  | none =>
    rw [coreStep_of_no_element hs hf hlen hdist]
    exact settle_progresses (internalStep_progress hs hready hidle hover hf hlen hdist)
  | some f =>
    refine coreStep_progresses_of_element (nextElement_stream hover hs.noCommands hf)
      (fetch_consumes s (streamFormat_some hf).2.2) ?_
    rintro i ⟨hfmt, hw⟩
    exact exec_progresses s hfmt hw hlen hdist

end

/-! ### The descent -/

/-- A started session whose host answers every request and accepts every byte, and does nothing else. -/
structure Running (s : State) : Prop where
  session : Session s
  started : resumeState s ≠ .idle
  noActions : s.host.actions = []
  ready : s.host.sinkReady = true
  ends : s.host.sourceEnds = true

/-- Fewer bits left; or as many, and less work; or as much, and fewer answers. -/
def Nearer (t s : State) : Prop :=
  bitsLeft t < bitsLeft s ∨ bitsLeft t = bitsLeft s ∧
    (work t < work s ∨ work t = work s ∧ answersLeft t < answersLeft s)

section
variable {s t : State}

theorem Running.hold (h : Running s) (ht : Session (holdInput s)) : Running (holdInput s) where
  session := ht
  started := by
    rw [resumeState, holdInput_fsm]
    exact h.started
  noActions := (holdInput_host_actions s).trans h.noActions
  ready := (holdInput_host_sinkReady s).trans h.ready
  ends := (holdInput_host_sourceEnds s).trans h.ends

/-- A hold takes an answer, and leaves the bits and the work. -/
theorem Running.hold_nearer (h : Running s) (hopen : s.rd.srcEnd = false) : Nearer (holdInput s) s := by
  have hwork : work (holdInput s) = work s := by
    rw [work, resumeState, unflushed, holdInput_fsm, holdInput_win]
    rfl
  obtain ⟨b, rest, hsrc, ht⟩ | ⟨-, -, ht⟩ | ⟨-, hends, -⟩ := holdInput_cases s
  · refine .inr ⟨?_, .inr ⟨hwork, ?_⟩⟩
    · simp only [ht, bitsLeft, hsrc, List.length_cons]
      omega
    · simp [ht, answersLeft, hsrc]
  · exact .inr ⟨by rw [ht]; rfl, .inr ⟨hwork, by simp [ht, answersLeft, hopen]⟩⟩
  · exact absurd (h.ends.symm.trans hends) nofun

theorem Progress.running (h : Progress s t) (hs : Running s) (ht : Session t) : Running t where
  session := ht
  started := h.started
  noActions := by rw [h.host]; exact hs.noActions
  ready := by rw [h.host]; exact hs.ready
  ends := by rw [h.host]; exact hs.ends

theorem Progress.nearer (h : Progress s t) (ht : Session t) : Nearer t s := by
  obtain ⟨n, hrd, hn⟩ := h.moved
  have hcursor := ht.cursor
  have hsource : t.host.source = s.host.source := by rw [h.host]
  have hbits : bitsLeft t + n = bitsLeft s := by
    simp only [bitsLeft, hsource, show t.rd = _ from hrd] at hcursor ⊢
    omega
  obtain hn | hn := hn
  · exact .inl (by omega)
  · by_cases hzero : n = 0
    · exact .inr ⟨by omega, .inl hn⟩
    · exact .inl (by omega)

/-- A running session ends in its next step, or runs on nearer its end. -/
theorem Running.step (h : Running s) (hover : sessionOver s = false) :
    ∃ t, step s = .next t ∧ (t.fsm.state = .error ∨ (Running t ∧ Nearer t s)) := by
  have hidle : s.fsm.state ≠ .idle := fun hst => h.started (resumeState_of_ne hst nofun)
  obtain ⟨t, hstep, ht⟩ := coreStep_session h.session
  refine ⟨t, (step_of_no_actions h.noActions).trans hstep, ?_⟩
  obtain herr | ⟨hopen, rfl⟩ | hprog := coreStep_progresses h.session h.ready hidle hover t hstep
  · exact .inl herr
  · exact .inr ⟨h.hold ht, h.hold_nearer hopen⟩
  · exact .inr ⟨hprog.running h ht, hprog.nearer ht⟩

theorem run_succ (M : Host.Core) {s t : M.State} {n : Nat} (h : M.step s = .next t) : M.run (n + 1) s = M.run n t := by
  rw [Host.Core.run, h]

end

theorem Running.reaches_end (s : State) (h : Running s) :
    ∃ n t, core.run n s = .next t ∧ (t.fsm.state = .done ∨ t.fsm.state = .error) := by
  cases hover : sessionOver s with
  | true =>
    refine ⟨0, s, rfl, ?_⟩
    simpa [sessionOver] using hover
  | false =>
    obtain ⟨t, hstep, herr | ⟨ht, hnearer⟩⟩ := h.step hover
    · exact ⟨1, t, run_succ core hstep, .inr herr⟩
    · obtain ⟨n, u, hrun, hu⟩ := Running.reaches_end t ht
      exact ⟨n + 1, u, (run_succ core hstep).trans hrun, hu⟩
termination_by (bitsLeft s, work s, answersLeft s)
decreasing_by simpa [Prod.lex_def, Nearer] using hnearer

/-- Settles O60: a started session is running, and every step of a running session brings it nearer its end. -/
theorem everySessionEnds : Obligations.EverySessionEnds := by
  intro s hs hidle ha hready hends
  refine Running.reaches_end s ⟨hs, fun hresume => ?_, ha, hready, hends⟩
  by_cases hst : s.fsm.state = .flush
  · obtain ⟨-, -, hret⟩ := hs.flushing hst
    rw [resumeState_flush hst] at hresume
    rw [hresume] at hret
    simp at hret
  · exact hidle ((resumeState_of_ne rfl hst).symm.trans hresume)

end Sys2Proof.Machine

namespace Sys2Proof.Machine

/-! ## The code lengths of a DYNAMIC block

The header, the code-length code lengths, the symbols of the code-length sequence and the two steps that build tables. -/

/-! ### The header and the code-length code lengths -/

section
variable {s : State}

theorem exec_dynHeader (hlit hdist : BitVec 5) (hclen : BitVec 4) : exec (.dynHeader hlit hdist hclen) s =
    .next { s.advance 14 with
      fsm.hlitR := hlit, fsm.hdistR := hdist, fsm.hclenR := hclen, fsm.cllIdx := 0, fsm.lensN := 0, fsm.state := .dynCll,
      tbl.clLen := List.replicate 19 0 } := rfl

/-- The model's ORDER is the printed one, and names the symbols of the code-length alphabet (44_code_lengths R811). -/
theorem order_eq_orderList : order = orderList := rfl

theorem lt_of_orderList_getElem? {k sym : Nat} (h : orderList[k]? = some sym) : k < 19 ∧ sym < 19 :=
  ⟨(List.getElem?_eq_some_iff.mp h).1,
    (by decide : ∀ n ∈ orderList, n < 19) sym (List.mem_of_getElem? h)⟩

/-- CLL_IDX has room for one past the last position of ORDER. -/
theorem toNat_cllIdx_succ (h : s.fsm.cllIdx.toNat < 19) : (s.fsm.cllIdx + 1).toNat = s.fsm.cllIdx.toNat + 1 :=
  BitVec.toNat_add_of_lt (show s.fsm.cllIdx.toNat + 1 < 2 ^ 5 by omega)

theorem exec_cll (len : BitVec 3) {sym : Nat} (h : orderList[s.fsm.cllIdx.toNat]? = some sym) :
    exec (.cll len) s = .next { s.advance 3 with
      tbl.clLen := s.tbl.clLen.set sym len,
      fsm.cllIdx := s.fsm.cllIdx + 1,
      fsm.state := if s.fsm.cllIdx.toNat + 1 = s.fsm.hclenR.toNat + 4 then .dynClBuild else .dynCll } := by
  rw [← toNat_cllIdx_succ (lt_of_orderList_getElem? h).1]
  rw [← order_eq_orderList] at h
  rw [exec, execCll, h]
  rfl

end

/-- Settles O13: the header's step is one write of the registers and the array. -/
theorem dynHeaderStartsSequence : Obligations.DynHeaderStartsSequence :=
  fun hlit hdist hclen _ => ⟨_, exec_dynHeader hlit hdist hclen, rfl, rfl, rfl, List.length_replicate,
    fun _ hj => List.getElem?_replicate_of_lt hj, ⟨rfl, rfl, fun _ => rfl⟩, rfl, rfl, rfl⟩

/-- Settles O14: the write is at the symbol that ORDER names, which CL_LEN has, and CLL_IDX does not wrap. -/
theorem cllFollowsPermutation : Obligations.CllFollowsPermutation := by
  intro len s sym hsym hlen
  obtain ⟨hidx, hlt⟩ := lt_of_orderList_getElem? hsym
  exact ⟨_, exec_cll len hsym, rfl, rfl, List.length_set.trans hlen, List.getElem?_set_self (hlt.trans_eq hlen.symm),
    fun j hj => List.getElem?_set_ne hj.symm, rfl, toNat_cllIdx_succ hidx, rfl, ⟨rfl, rfl, fun _ => rfl⟩, rfl, rfl, rfl⟩

/-! ### The symbols of the sequence -/

section
variable {s : State}

theorem exec_clLit {c : BitVec 4} (h : s.fsm.lensN.toNat < 320) : exec (.clLit c) s =
    .next { s.advance (codeLength s.clLens c.toNat) with
      fsm.lens := s.fsm.lens.set s.fsm.lensN.toNat c, fsm.lensN := s.fsm.lensN + 1, fsm.state := .dynLens } := by
  rw [exec, execClLit, if_pos h]
  rfl

/-- The extra bits of a row, `n` bits into the step, where they are there. -/
theorem takeExtra_advance {row : Nat × Nat} {n : Nat} (h : s.rd.offset + n + row.1 ≤ s.rd.readbits) :
    takeExtra row (s.advance n) = .ok (row.2 + FieldSum s (s.rd.offset + n) row.1, s.advance (n + row.1)) := by
  have hthere : (s.advance n).rd.offset + row.1 ≤ (s.advance n).rd.readbits := h
  rw [takeExtra_eq, if_pos hthere, fieldValue_advance, fieldValue_eq_FieldSum, advance_advance]
  rfl

/-- With its extra bits there, a repeat symbol goes on to write its run. -/
theorem exec_repeat {i : Instr} {sym e base : Nat} {v : CodeLen} (hrow : (i, sym, e, base, v) ∈ repeatRows s)
    (hprev : i = .rep16 → s.fsm.lensN ≠ 0) (h : s.rd.offset + codeLength s.clLens sym + e ≤ s.rd.readbits) :
    exec i s = settle s (repeatLength (base + FieldSum s (s.rd.offset + codeLength s.clLens sym) e) v
      (s.advance (codeLength s.clLens sym + e))) := by
  rw [exec_of_mem_repeatRows hrow hprev, pastCl, takeExtra_advance h]
  rfl

/-- The tail of a repeat whose run is within `total`. -/
theorem repeatLength_of_le {r n : Nat} {v : CodeLen} (h : s.fsm.lensN.toNat + r ≤ totalLengths s) :
    repeatLength r v (s.advance n) = .ok { s.advance n with
      fsm.lens := setRun s.fsm.lens s.fsm.lensN.toNat r v,
      fsm.lensN := s.fsm.lensN + BitVec.ofNat 9 r,
      fsm.state := .dynLens } :=
  if_neg (Nat.not_lt.mpr h)

/-- The tail of a repeat whose run overshoots `total` (44_code_lengths R825). -/
theorem repeatLength_of_lt {r n : Nat} {v : CodeLen} (h : totalLengths s < s.fsm.lensN.toNat + r) :
    repeatLength r v (s.advance n) = .error (.raise .invalidCodeLengthCount (s.rd.offset + n)) :=
  if_pos h

theorem exec_clInvalid {i : Instr} {sym : Nat} (h : i = .clInvalid19 ∧ sym = 19 ∨
      (∃ low : BitVec 2, i = .clInvalid20 low ∧ sym = 20 + low.toNat) ∨
      (∃ low : BitVec 3, i = .clInvalid24 low ∧ sym = 24 + low.toNat)) :
    exec i s = .next (takeFault .invalidSequenceSymbol (s.rd.offset + codeLength s.clLens sym) s) := by
  obtain ⟨rfl, rfl⟩ | ⟨low, rfl, rfl⟩ | ⟨low, rfl, rfl⟩ := h <;> rfl

theorem exec_llInvalid (low : BitVec 1) : exec (.llInvalid low) s =
    .next (takeFault .symbolDecodeError (s.rd.offset + codeLength s.llLens (286 + low.toNat)) s) := rfl

theorem exec_dInvalid (low : BitVec 1) : exec (.dInvalid low) s =
    .next (takeFault .symbolDecodeError (s.rd.offset + codeLength s.dLens (30 + low.toNat)) s) := rfl

/-- `Decode` answers only symbols of its alphabet. -/
theorem decodeWith_lt_length {lens : List CodeLen} {sym : Nat} {t : State} (h : decodeWith lens s = .ok (sym, t)) :
    sym < lens.length := by
  obtain ⟨sym', hlt, -, -, h'⟩ | ⟨k, -, h'⟩ | ⟨-, h'⟩ := decodeWith_cases lens s <;> rw [h] at h' <;> cases h'
  exact hlt

end

/-- Settles O15: the write is at LENS_N, which has room in LENS and does not wrap. -/
theorem clLitWritesOneLength : Obligations.ClLitWritesOneLength := by
  intro c s hn hlen
  exact ⟨_, exec_clLit hn, rfl, rfl, List.getElem?_set_self (hn.trans_eq hlen.symm),
    fun j hj => List.getElem?_set_ne hj.symm, BitVec.toNat_add_of_lt (show s.fsm.lensN.toNat + 1 < 2 ^ 9 by omega),
    ⟨rfl, rfl, fun _ => rfl⟩, rfl, rfl, rfl, rfl⟩

/-- Settles O16: `total` is at most the size of LENS, so a run within it is written whole and LENS_N does not wrap. -/
theorem repeatsWriteRunOrOvershoot : Obligations.RepeatsWriteRunOrOvershoot := by
  intro s i sym e base v hrow hprev hlen hbits r total
  rw [exec_repeat hrow hprev hbits]
  refine ⟨fun hfits => ?_, fun hover => ?_⟩
  · have hroom : s.fsm.lensN.toNat + r ≤ s.fsm.lens.length := hlen ▸ hfits.trans (totalLengths_le s)
    rw [repeatLength_of_le hfits]
    exact ⟨_, rfl, rfl, rfl, setRun_getElem? _ _ r v hroom, toNat_lensN_add hfits, ⟨rfl, rfl, fun _ => rfl⟩,
      rfl, rfl, rfl, rfl⟩
  · rw [repeatLength_of_lt hover, Nat.add_assoc]
    exact ⟨_, rfl, faulted_takeFault _ _ s⟩

/-- Settles O23: each symbol's step is the fault entry past its codeword; `Decode` answers no symbol past its alphabet. -/
theorem invalidSymbolsRaise : Obligations.InvalidSymbolsRaise := by
  refine ⟨fun s i sym h => ⟨_, exec_clInvalid h, faulted_takeFault _ _ s⟩, fun s sym t hlen h => ?_,
    fun low s => ⟨⟨_, exec_llInvalid low, faulted_takeFault _ _ s⟩,
      ⟨_, exec_dInvalid low, faulted_takeFault _ _ s⟩⟩⟩
  have hlt := decodeWith_lt_length h
  rw [State.clLens, List.length_map, hlen] at hlt
  omega

/-! ### The tables -/

section
variable {s : State}

/-- The step of DYN_LENS with the sequence full reads no element (44_code_lengths R814). -/
theorem coreStep_dynLens_full (hc : s.host.commands = []) (hst : s.fsm.state = .dynLens)
    (hfull : s.fsm.lensN.toNat = totalLengths s) : coreStep s = .next { s with fsm.state := .dynBuild } := by
  have hnext : nextElement s = none := by
    simp only [nextElement, sessionOver, hst, hc, streamFormat, if_pos hfull]
    rfl
  rw [coreStep, hnext]
  simp only [internalStep, hst]
  rfl

/-- A setup step with an oversubscribed length set raises where it stands (42_huffman R606). -/
theorem setup_of_oversubscribed {t u : State} (h : build t.llLens = none ∨ build t.dLens = none) :
    (buildTable t.llLens t >>= fun _ => buildTable t.dLens t >>= fun _ => .ok u) =
      (.error (.raise .oversubscribedCode t.rd.offset) : Run State) := by
  cases hll : build t.llLens with
  | none => rw [buildTable_of_none t hll]; rfl
  | some ll =>
    rw [buildTable_of_some t hll, buildTable_of_none t (h.resolve_left (by simp [hll]))]
    rfl

/-- The step of DYN_BUILD. -/
theorem step_dynBuild (ha : s.host.actions = []) (hc : s.host.commands = []) (hst : s.fsm.state = .dynBuild) :
    step s = settle s (dynBuild s) := by
  rw [step_of_no_actions ha, coreStep_internalState hc (by rw [hst]; decide), internalStep, hst]

/-- LL_N and D_N are at most the sizes of LL_LEN and D_LEN (10_state R110). -/
theorem split_counts (s : State) : s.fsm.hlitR.toNat + 257 ≤ 288 ∧ s.fsm.hdistR.toNat + 1 ≤ 32 := by
  have hlit := s.fsm.hlitR.isLt
  have hdist := s.fsm.hdistR.isLt
  omega

theorem splitLengths_llN (s : State) : (splitLengths s).tbl.llN.toNat = s.fsm.hlitR.toNat + 257 :=
  Nat.mod_eq_of_lt ((split_counts s).1.trans_lt (by decide))

theorem splitLengths_dN (s : State) : (splitLengths s).tbl.dN.toNat = s.fsm.hdistR.toNat + 1 :=
  Nat.mod_eq_of_lt ((split_counts s).2.trans_lt (by decide))

/-- The two parts of LENS have the lengths LL_N and D_N. -/
theorem split_parts_length (hlen : s.fsm.lens.length = 320) :
    (s.fsm.lens.take (s.fsm.hlitR.toNat + 257)).length = s.fsm.hlitR.toNat + 257 ∧
    ((s.fsm.lens.drop (s.fsm.hlitR.toNat + 257)).take (s.fsm.hdistR.toNat + 1)).length = s.fsm.hdistR.toNat + 1 := by
  obtain ⟨hll, hd⟩ := split_counts s
  simp only [List.length_take, List.length_drop, hlen]
  omega

/-- TBL_LL is that of the first part. -/
theorem splitLengths_llLens (hlen : s.fsm.lens.length = 320) :
    (splitLengths s).llLens = s.fsm.lens.take (s.fsm.hlitR.toNat + 257) := by
  rw [State.llLens, splitLengths_llN]
  exact List.take_left' (split_parts_length hlen).1

/-- TBL_D is that of the second. -/
theorem splitLengths_dLens (hlen : s.fsm.lens.length = 320) :
    (splitLengths s).dLens = (s.fsm.lens.drop (s.fsm.hlitR.toNat + 257)).take (s.fsm.hdistR.toNat + 1) := by
  rw [State.dLens, splitLengths_dN]
  exact List.take_left' (split_parts_length hlen).2

/-- A part of `n` lengths, filled up with 0 to an array of `m`. -/
theorem padded_length {l : List CodeLen} {n m : Nat} (hl : l.length = n) (hn : n ≤ m) :
    (l ++ List.replicate (m - n) 0).length = m := by
  rw [List.length_append, List.length_replicate, hl, Nat.add_sub_cancel' hn]

theorem padded_getElem?_lt {l : List CodeLen} {n m j : Nat} (hl : l.length = n) (hj : j < n) :
    (l ++ List.replicate (m - n) 0)[j]? = l[j]? :=
  List.getElem?_append_left (hj.trans_eq hl.symm)

theorem padded_getElem?_ge {l : List CodeLen} {n m j : Nat} (hl : l.length = n) (hn : n ≤ j) (hj : j < m) :
    (l ++ List.replicate (m - n) 0)[j]? = some 0 := by
  rw [List.getElem?_append_right (hl.le.trans hn), List.getElem?_replicate_of_lt (by omega)]

end

/-- Settles O39: the Kraft sum decides whether TBL_CL builds. -/
theorem codeLengthTableIsBuilt : Obligations.CodeLengthTableIsBuilt := by
  intro s ha hc
  have hstep (hst : s.fsm.state = .dynClBuild) : step s = settle s (dynClBuild s) := by
    rw [step_of_no_actions ha, coreStep_internalState hc (by rw [hst]; decide), internalStep, hst]
  refine ⟨fun hst hk => ?_, fun hst hk => ?_, fun hst hfull => ?_⟩
  · have hb := build_of_le _ hk
    rw [hstep hst, dynClBuild, buildTable_of_some s hb, hb]
    exact ⟨rfl, rfl⟩
  · rw [hstep hst, dynClBuild, buildTable_of_none s (build_of_lt _ hk)]
    exact ⟨_, rfl, faulted_takeFault _ _ s⟩
  · rw [step_of_no_actions ha, coreStep_dynLens_full hc hst hfull]

/-- Settles O40: each array is its part of LENS filled up with 0, and its table is that of the part. -/
theorem dynBuildSplitsLengths : Obligations.DynBuildSplitsLengths := by
  intro s ha hc hst hlen llN dN ll d
  have hll : (splitLengths s).llLens = ll := splitLengths_llLens hlen
  have hd : (splitLengths s).dLens = d := splitLengths_dLens hlen
  rw [step_dynBuild ha hc hst]
  refine ⟨fun hkll hkd => ?_, fun hk => ?_⟩
  · have hbll : (build ll).isSome := by rw [build_of_le ll hkll]; rfl
    have hbd : (build d).isSome := by rw [build_of_le d hkd]; rfl
    obtain ⟨hllN, hdN⟩ := split_counts s
    obtain ⟨hllLen, hdLen⟩ := split_parts_length hlen
    have hrun : dynBuild s = .ok { splitLengths s with fsm.state := .bodySym } :=
      setup_of_builds (t := splitLengths s) (hll ▸ hbll) (hd ▸ hbd)
    rw [hrun]
    refine ⟨_, rfl, rfl, rfl, rfl, splitLengths_llN s, splitLengths_dN s, padded_length hllLen hllN,
      padded_length hdLen hdN, fun j hj => ?_, fun j hn hj => padded_getElem?_ge hllLen hn hj, fun j hj => ?_,
      fun j hn hj => padded_getElem?_ge hdLen hn hj,
      congrArg build hll, congrArg build hd, hbll, hbd, ⟨rfl, rfl, fun _ => rfl⟩, rfl, rfl, rfl⟩
    · exact (padded_getElem?_lt hllLen hj).trans (List.getElem?_take_of_lt hj)
    · exact (padded_getElem?_lt hdLen hj).trans ((List.getElem?_take_of_lt hj).trans List.getElem?_drop)
  · have hnone : build (splitLengths s).llLens = none ∨ build (splitLengths s).dLens = none := by
      rw [hll, hd]
      exact hk.imp (build_of_lt ll) (build_of_lt d)
    have hrun : dynBuild s = .error (.raise .oversubscribedCode s.rd.offset) := setup_of_oversubscribed hnone
    rw [hrun]
    exact ⟨_, rfl, faulted_takeFault _ _ s⟩

end Sys2Proof.Machine

namespace Sys2Proof.Machine

/-! ## The symbols of a body

A match is two symbols, each kept in SYM_R by one step and read out by the next, with its extra bits, as its row of the
printed table says; then COPY appends its bytes one per step, in the way a literal and a STORED byte are appended. -/

/-! ### The printed rows -/

section
variable {s : State} {i : Instr} {n e base : Nat}

/-- The rows of the length table, by their position in it. -/
theorem exists_of_mem_lengthRows (h : (i, n, e, base) ∈ lengthRows) :
    ∃ k, ∃ hk : k < 29, i = lengthInstrs[k]'hk ∧ n = 257 + k ∧ lengthRow (257 + k) = (e, base) := by
  obtain ⟨k, hk, hrow⟩ := List.getElem_of_mem h
  rw [lengthRows_getElem hk] at hrow
  simp only [Prod.mk.injEq] at hrow
  obtain ⟨rfl, rfl, hrow⟩ := hrow
  exact ⟨k, hk, rfl, rfl, hrow⟩

/-- The rows of the distance table, by their position in it. -/
theorem exists_of_mem_distanceRows (h : (i, n, e, base) ∈ distanceRows) :
    ∃ hn : n < 30, i = distInstrs[n]'hn ∧ distRow n = (e, base) := by
  obtain ⟨k, hk, hrow⟩ := List.getElem_of_mem h
  rw [distanceRows_getElem hk] at hrow
  simp only [Prod.mk.injEq] at hrow
  obtain ⟨rfl, rfl, hrow⟩ := hrow
  exact ⟨hk, rfl, hrow⟩

/-- LEN_EXTRA fetches the length symbol that SYM_R holds (45_body_symbols R940). -/
theorem fetchLength_of_mem (h : (i, n, e, base) ∈ lengthRows) (hsym : s.fsm.symR.toNat = n) : fetchLength s = .ok i := by
  obtain ⟨k, hk, rfl, rfl, -⟩ := exists_of_mem_lengthRows h
  rw [fetchLength, hsym, if_pos (by omega), instrOf, decode_lengthSymbol hk]

/-- DIST_EXTRA fetches the distance symbol that SYM_R holds (45_body_symbols R980). -/
theorem fetchDistance_of_mem (h : (i, n, e, base) ∈ distanceRows) (hsym : s.fsm.symR.toNat = n) :
    fetchDistance s = .ok i := by
  obtain ⟨hn, rfl, -⟩ := exists_of_mem_distanceRows h
  rw [fetchDistance, hsym, if_pos (by omega), instrOf, decode_distSymbol hn]

theorem fieldSum_lt (s : State) (k n : Nat) : FieldSum s k n < 2 ^ n :=
  fieldValue_eq_FieldSum s k n ▸ fieldValue_lt s k n

/-- A row's value, with whatever extra bits, in a register that has room for all of them. -/
theorem toNat_base_add_fieldSum {w : Nat} (h : base + 2 ^ e ≤ 2 ^ w) (s : State) (k : Nat) :
    (BitVec.ofNat w (base + FieldSum s k e)).toNat = base + FieldSum s k e := by
  have hextra := fieldSum_lt s k e
  rw [BitVec.toNat_ofNat, Nat.mod_eq_of_lt (by omega)]

/-- LENGTH_R has room for every length of the table. -/
theorem length_le_of_mem (h : (i, n, e, base) ∈ lengthRows) : base + 2 ^ e ≤ 2 ^ 9 := by
  obtain ⟨k, hk, -, -, hrow⟩ := exists_of_mem_lengthRows h
  have hmax : base + 2 ^ e ≤ 259 := (hrow ▸ lengthRow_bounds k hk).2
  omega

/-- DIST_R has room for every distance of the table. -/
theorem distance_le_of_mem (h : (i, n, e, base) ∈ distanceRows) : base + 2 ^ e ≤ 2 ^ 16 := by
  obtain ⟨hn, -, hrow⟩ := exists_of_mem_distanceRows h
  have hmax : base + 2 ^ e ≤ 32769 := (hrow ▸ distRow_bounds n hn).2
  omega

/-! ### The steps of a symbol -/

/-- A step that moves past a codeword and keeps its symbol in SYM_R. -/
theorem kept_of_eq {o : Host.Outcome State Fault Refusal} {m : Nat} {next : FsmState} (hn : n < 512)
    (h : o = .next { s.advance m with fsm.symR := BitVec.ofNat 9 n, fsm.state := next }) :
    ∃ t, o = .next t ∧ Moved m s t ∧ t.fsm = { s.fsm with symR := t.fsm.symR, state := next } ∧
      t.fsm.symR.toNat = n ∧ SameWindow s t ∧ t.tbl = s.tbl ∧ SameOutside s t :=
  ⟨_, h, rfl, rfl, (BitVec.toNat_ofNat n 9).trans (Nat.mod_eq_of_lt hn), ⟨rfl, rfl, fun _ => rfl⟩, rfl, rfl, rfl, rfl⟩

/-- `base + FIELD(extra)` where the extra bits are there. -/
theorem takeExtra_here (h : s.rd.offset + e ≤ s.rd.readbits) :
    takeExtra (e, base) s = .ok (base + FieldSum s s.rd.offset e, s.advance e) := by
  rw [takeExtra_eq, if_pos h, fieldValue_eq_FieldSum]

/-- The step of LEN_EXTRA (45_body_symbols R940). -/
theorem exec_lenExtra (h : (i, n, e, base) ∈ lengthRows) (hst : s.fsm.state = .lenExtra)
    (hbits : s.rd.offset + e ≤ s.rd.readbits) : exec i s = .next { s.advance e with
      fsm.lengthR := BitVec.ofNat 9 (base + FieldSum s s.rd.offset e), fsm.state := .distSym } := by
  obtain ⟨hexec, hrow⟩ := exec_of_mem_lengthRows (s := s) h
  rw [hexec, lengthMeaning, if_pos hst, readLength, hrow, takeExtra_here hbits]
  rfl

/-- The step of DIST_EXTRA (45_body_symbols R980). -/
theorem exec_distExtra (h : (i, n, e, base) ∈ distanceRows) (hst : s.fsm.state = .distExtra)
    (hbits : s.rd.offset + e ≤ s.rd.readbits) : exec i s =
      if s.win.size < base + FieldSum s s.rd.offset e then .next (takeFault .invalidBackReference (s.rd.offset + e) s)
      else .next { s.advance e with
        fsm.distR := BitVec.ofNat 16 (base + FieldSum s s.rd.offset e), fsm.copyRem := s.fsm.lengthR,
        fsm.state := .copy } := by
  obtain ⟨hexec, hrow⟩ := exec_of_mem_distanceRows (s := s) h
  rw [hexec, distMeaning, if_pos hst, readDistance, hrow, takeExtra_here hbits]
  split_ifs with hsize
  · exact congrArg (settle s) (if_pos hsize)
  · exact congrArg (settle s) (if_neg hsize)

/-! ### The steps that append a byte -/

theorem flushChecked_flushCheck (next : FsmState) (s : State) : FlushChecked next s.fsm (flushCheck next s) := by
  simp only [FlushChecked, flushCheck_win, flushCheck_cfg, flushCheck_fsm]
  exact ⟨fun h => if_pos h, fun h => if_neg h⟩

/-- A step that appends one byte, leaves the FSM's registers at `f` and checks for a flush. -/
theorem appendsThenChecks_of_eq {o : Host.Outcome State Fault Refusal} {m : Nat} {b : Byte} {f : FsmRegs}
    {next : FsmState} (h : o = .next (flushCheck next { append b (s.advance m) with fsm := f })) :
    ∃ t, o = .next t ∧ Moved m s t ∧ Appended b s t ∧ FlushChecked next f t ∧ t.tbl = s.tbl ∧ SameOutside s t :=
  ⟨_, h, flushCheck_rd _ _, appended_of_win (flushCheck_win _ _), flushChecked_flushCheck next _, flushCheck_tbl _ _,
    flushCheck_err _ _, flushCheck_cfg _ _, flushCheck_host _ _⟩

end

/-- Settles O20: outside its extra state a symbol of the tables is kept, and SYM_R has room for it. -/
theorem matchSymbolsAreKept : Obligations.MatchSymbolsAreKept := by
  refine fun s i n e b => ⟨fun hrow hst => ?_, fun hrow hst => ?_⟩
  · obtain ⟨k, hk, -, hn, -⟩ := exists_of_mem_lengthRows hrow
    rw [(exec_of_mem_lengthRows hrow).1, lengthMeaning, if_neg hst]
    exact kept_of_eq (by omega) rfl
  · obtain ⟨hn, -, -⟩ := exists_of_mem_distanceRows hrow
    rw [(exec_of_mem_distanceRows hrow).1, distMeaning, if_neg hst]
    exact kept_of_eq (by omega) rfl

/-- Settles O21: LEN_EXTRA's step is one write, and LENGTH_R has room for the length. -/
theorem lengthExtraAddsBase : Obligations.LengthExtraAddsBase :=
  fun s _ _ _ _ hrow hst hbits => ⟨_, exec_lenExtra hrow hst hbits, rfl, rfl,
    toNat_base_add_fieldSum (length_le_of_mem hrow) s _, ⟨rfl, rfl, fun _ => rfl⟩, rfl, rfl, rfl, rfl⟩

/-- Settles O22: the distance, for which DIST_R has room, is checked against `size` before the write. -/
theorem distanceExtraChecksSize : Obligations.DistanceExtraChecksSize := by
  intro s i n e base hrow hst hbits d
  rw [exec_distExtra hrow hst hbits]
  refine ⟨fun hsize => ?_, fun hsize => ?_⟩
  · rw [if_neg (Nat.not_lt.mpr hsize)]
    exact ⟨_, rfl, rfl, rfl, toNat_base_add_fieldSum (distance_le_of_mem hrow) s _,
      ⟨rfl, rfl, fun _ => rfl⟩, rfl, rfl, rfl, rfl⟩
  · rw [if_pos hsize]
    exact ⟨_, rfl, faulted_takeFault _ _ s⟩

/-- Settles O41: the byte at `size - DIST_R` is there, so COPY appends it (`appendBackref_of_read`). -/
theorem copyStepAppendsOneByte : Obligations.CopyStepAppendsOneByte := by
  intro s b ha hc hst h1 hmax hsize hb
  refine appendsThenChecks_of_eq ?_
  rw [step_of_no_actions ha, coreStep_internalState hc (by rw [hst]; decide), internalStep, hst]
  show settle s (copyByte s) = _
  rw [copyByte, appendBackref_of_read h1 hmax hsize hb]
  rfl

/-- Settles O8: the fetch answers the symbol that SYM_R holds. -/
theorem stepRunsKeptSymbol : Obligations.StepRunsKeptSymbol := by
  refine fun s i n e b ha hc hsym => ⟨fun hst hrow => step_of_fetch ha ?_, fun hst hrow => step_of_fetch ha ?_⟩
  · rw [nextElement_lenExtra hc hst, fetchLength_of_mem hrow hsym]
  · rw [nextElement_distExtra hc hst, fetchDistance_of_mem hrow hsym]

/-- Settles O18: EOB's step moves past the codeword and writes the state (`header_of_eq`). -/
theorem endOfBlockEndsBody : Obligations.EndOfBlockEndsBody := fun _ => header_of_eq rfl

/-- Settles O19: both end in the same append and check; STORED_BYTE has counted STORED_REM down before. -/
theorem literalsAppendOneByte : Obligations.LiteralsAppendOneByte :=
  fun _ _ => ⟨appendsThenChecks_of_eq rfl, appendsThenChecks_of_eq rfl⟩

end Sys2Proof.Machine

namespace Sys2Proof.Machine

/-! ## Taking an exception

A step of the core enters ERROR in one way only: its run raises, and the fault entry is taken from the state the step began
in, less the command that raised. `NamesErrors P r` is what this needs of a run, and `FaultsFrom u o` what it gives of the
step's outcome. -/

/-- A run that answers something of which `P` holds, or stops; where it raises, it names an error (60_exceptions R1101). -/
inductive NamesErrors {α : Type} (P : α → Prop) : Run α → Prop where
  | ok {a : α} (h : P a) : NamesErrors P (.ok a)
  | stop {e : Stop} (h : ∀ o, e ≠ .raise .noError o) : NamesErrors P (.error e)

/-- Where an outcome is in ERROR, it is the fault entry from `u`, and nothing else (60_exceptions R1110). -/
def FaultsFrom (u : State) (o : Host.Outcome State Fault Refusal) : Prop :=
  ∀ t, o = .next t → t.fsm.state = .error → ∃ k off, k ≠ .noError ∧ t = takeFault k off u

/-- The state a fault entry of an instruction starts from: a command that raises has left its queue (assumption log 10). -/
def faultBase (i : Instr) (s : State) : State := if (encode i).fmt = .cmd4 then popCommand s else s

theorem popCommand_eq_self {s : State} (hc : s.host.commands = []) : popCommand s = s :=
  congrArg (fun commands => { s with host.commands := commands })
    (show s.host.commands.tail = s.host.commands by rw [hc, List.tail_nil])

/-! ### Rules -/

section
variable {α β : Type} {s : State}

theorem NamesErrors.bind {P : α → Prop} {Q : β → Prop} {r : Run α} {k : α → Run β} (h : NamesErrors P r)
    (hk : ∀ a, P a → NamesErrors Q (k a)) : NamesErrors Q (r >>= k) := by
  cases h with
  | ok h => exact hk _ h
  | stop h => exact .stop h

theorem NamesErrors.ite {P : α → Prop} {c : Prop} [Decidable c] {r r' : Run α} (h : NamesErrors P r)
    (h' : NamesErrors P r') : NamesErrors P (if c then r else r') := by
  split
  · exact h
  · exact h'

theorem NamesErrors.raise {P : α → Prop} {k : ErrKind} {o : Nat} (hk : k ≠ .noError := by nofun) :
    NamesErrors P (.error (.raise k o)) :=
  .stop fun _ he => hk (Stop.raise.inj he).1

theorem NamesErrors.hold {P : α → Prop} : NamesErrors P (.error .hold) := .stop nofun

theorem NamesErrors.fault {P : α → Prop} {f : Fault} : NamesErrors P (.error (.fault f)) := .stop nofun

theorem NamesErrors.refuse {P : α → Prop} {r : Refusal} : NamesErrors P (.error (.refuse r)) := .stop nofun

theorem NamesErrors.checked {P : State → Prop} {b : Bool} {r : Run State} (h : NamesErrors P r) :
    NamesErrors P (checked b r) :=
  .ite h .refuse

/-- A read of the input that ends in a raise or a hold where bits are missing. -/
theorem NamesErrors.read {P : α → Prop} {c : Prop} [Decidable c] {a : α} {o : Nat} {ended : Bool} (h : P a) :
    NamesErrors P (if c then .ok a else if ended then .error (.raise .endOfStream o) else .error .hold) :=
  .ite (.ok h) (.ite .raise .hold)

/-- A probe of the input answers 0 where it has ended. -/
theorem NamesErrors.probe {c : Prop} [Decidable c] {b ended : Bool} :
    NamesErrors (fun _ => True) (if c then .ok b else if ended then .ok false else .error .hold) :=
  .ite (.ok trivial) (.ite (.ok trivial) .hold)

theorem settle_faults {r : Run State} (hst : s.fsm.state ≠ .error) (h : NamesErrors (fun t => t.fsm.state ≠ .error) r) :
    FaultsFrom s (settle s r) := by
  intro t ht herr
  obtain rfl | ⟨rfl, rfl⟩ | ⟨k, o, rfl, rfl⟩ := settle_next ht
  · cases h with | ok h => exact absurd herr h
  · exact absurd (holdInput_fsm s ▸ herr) hst
  · cases h with | stop h => exact ⟨k, o, fun hk => h o (by rw [hk]), rfl⟩

/-- A command leaves the FSM's registers as they are. -/
theorem settleCommand_faults {r : Run State} (hst : s.fsm.state ≠ .error) (h : NamesErrors (fun t => t.fsm = s.fsm) r) :
    FaultsFrom (popCommand s) (settleCommand s r) := by
  intro t ht herr
  obtain rfl | ⟨rfl, rfl⟩ | ⟨k, o, rfl, rfl⟩ := settleCommand_next ht
  · cases h with | ok h => exact absurd (h ▸ herr) hst
  · exact absurd (holdInput_fsm s ▸ herr) hst
  · cases h with | stop h => exact ⟨k, o, fun hk => h o (by rw [hk]), rfl⟩

end

/-! ### The operations -/

section
variable (s : State)

theorem takeField_named (n : Nat) : NamesErrors (fun p => p.2.fsm = s.fsm) (takeField n s) := by
  rw [takeField_eq]
  exact .read rfl

theorem takeExtra_named (row : Nat × Nat) : NamesErrors (fun p => p.2.fsm = s.fsm) (takeExtra row s) :=
  (takeField_named s row.1).bind fun _ h => .ok h

theorem takeCode_named (n : Nat) : NamesErrors (fun p => p.2.fsm = s.fsm) (takeCode n s) := by
  rw [takeCode_eq]
  exact .read rfl

theorem peekField_named (n : Nat) : NamesErrors (fun _ => True) (peekField n s) := by
  rw [peekField_eq]
  exact .read trivial

theorem peekCode_named (n : Nat) : NamesErrors (fun _ => True) (peekCode n s) := by
  rw [peekCode_eq]
  exact .read trivial

theorem discard_named (n : Nat) : NamesErrors (fun t => t.fsm = s.fsm) (discard n s) := by
  rw [discard_eq]
  exact .read rfl

theorem buildTable_named (lens : List CodeLen) : NamesErrors (fun _ => True) (buildTable lens s) := by
  unfold buildTable
  split
  · exact .ok trivial
  · exact .raise

theorem decodeWith_named (lens : List CodeLen) : NamesErrors (fun p => p.2.fsm = s.fsm) (decodeWith lens s) := by
  obtain ⟨sym, -, -, -, h⟩ | ⟨k, hk, h⟩ | ⟨-, h⟩ := decodeWith_cases lens s <;> rw [h]
  · exact .ok rfl
  · exact .raise (by obtain rfl | rfl | ⟨rfl, -⟩ := hk <;> nofun)
  · exact .hold

theorem winByte_named (j : Nat) : NamesErrors (fun _ => True) (winByte j s) := by
  unfold winByte
  split
  · exact .ok trivial
  · exact .fault

theorem winBytes_named (j n : Nat) : NamesErrors (fun _ => True) (winBytes j n s) := by
  induction n generalizing j with
  | zero => exact .ok trivial
  | succ n ih => exact (winByte_named s j).bind fun _ _ => (ih (j + 1)).bind fun _ _ => .ok trivial

theorem lastN_named (n : Nat) : NamesErrors (fun _ => True) (lastN n s) :=
  .ite (.ok trivial) ((winBytes_named s _ n).bind fun _ _ => .ok trivial)

theorem winRead_named (i : Nat) : NamesErrors (fun _ => True) (winRead i s) :=
  .ite ((winByte_named s i).bind fun _ _ => .ok trivial) (.ok trivial)

theorem appendBackref_named (d : Nat) : NamesErrors (fun t => t.fsm = s.fsm) (appendBackref d s) :=
  .ite .refuse (.ite .raise ((winByte_named s _).bind fun _ _ => .ok rfl))

theorem ite_ne_error {c : Prop} [Decidable c] {st st' : FsmState} (h : st ≠ .error) (h' : st' ≠ .error) :
    (if c then st else st') ≠ .error := by
  split
  · exact h
  · exact h'

theorem flushCheck_ne_error {next : FsmState} (h : next ≠ .error) (t : State) :
    (flushCheck next t).fsm.state ≠ .error := by
  rw [flushCheck_fsm]
  split
  · nofun
  · exact h

/-- Extra bits after a codeword, then the run. -/
theorem repeat_named (row : Nat × Nat) (v : State → CodeLen) :
    NamesErrors (fun t => t.fsm.state ≠ .error) (takeExtra row s >>= fun p => repeatLength p.1 (v p.2) p.2) :=
  (takeExtra_named s row).bind fun _ _ => .ite .raise (.ok nofun)

/-- A setup step builds two tables, then writes. -/
theorem setup_named {t u : State} (hu : u.fsm.state ≠ .error) (ll d : List CodeLen) :
    NamesErrors (fun t => t.fsm.state ≠ .error)
      (buildTable ll t >>= fun _ => buildTable d t >>= fun _ => .ok u) :=
  (buildTable_named t ll).bind fun _ _ => (buildTable_named t d).bind fun _ _ => .ok hu

/-- A command that looks at the input or the window and answers. -/
theorem answer_look_named {α : Type} {r : Run α} (h : NamesErrors (fun _ => True) r) (f : α → Response) :
    NamesErrors (fun t => t.fsm = s.fsm) (r >>= fun a => .ok (answer (f a) s)) :=
  h.bind fun _ _ => .ok rfl

/-- A command that takes bits and answers. -/
theorem answer_take_named {r : Run (Nat × State)} (h : NamesErrors (fun p => p.2.fsm = s.fsm) r) (f : Nat → Response) :
    NamesErrors (fun t => t.fsm = s.fsm) (r >>= fun p => .ok (answer (f p.1) p.2)) :=
  h.bind fun _ h => .ok h

/-- A command that moves the cursor or appends, and has no value to answer. -/
theorem answer_completed_named {r : Run State} (h : NamesErrors (fun t => t.fsm = s.fsm) r) :
    NamesErrors (fun t => t.fsm = s.fsm) (r >>= fun t => .ok (answer .completed t)) :=
  h.bind fun _ h => .ok h

end

/-! ### The steps -/

section
variable {s : State}

theorem lengthMeaning_faults (hst : s.fsm.state ≠ .error) (sym : Nat) : FaultsFrom s (lengthMeaning sym s) :=
  settle_faults hst (.ite ((takeExtra_named s _).bind fun _ _ => .ok nofun) (.ok nofun))

theorem distMeaning_faults (hst : s.fsm.state ≠ .error) (sym : Nat) : FaultsFrom s (distMeaning sym s) :=
  settle_faults hst (.ite ((takeExtra_named s _).bind fun _ _ => .ite .raise (.ok nofun)) (.ok nofun))

theorem execCmdWinRead_faults (hst : s.fsm.state ≠ .error) (i : Nat) : FaultsFrom (popCommand s) (execCmdWinRead i s) :=
  settleCommand_faults hst ((winRead_named s i).bind fun _ _ => .ok rfl)

theorem execCmdDecode_faults (hst : s.fsm.state ≠ .error) (table : TableSel) :
    FaultsFrom (popCommand s) (execCmdDecode table s) :=
  settleCommand_faults hst (answer_take_named s (decodeWith_named s _) .symbol)

/-- No instruction goes on to ERROR but by raising. -/
theorem exec_faults (hst : s.fsm.state ≠ .error) (i : Instr) : FaultsFrom (faultBase i s) (exec i s) := by
  cases i with
  | zlibHeader cmf flg => exact settle_faults hst (.ite .raise (.ok (by nofun)))
  | blockStored | blockFixed | blockDynamic | dynHeader | eob => exact settle_faults hst (.ok (by nofun))
  | blockInvalid | clInvalid19 | clInvalid20 | clInvalid24 | llInvalid | dInvalid =>
    exact settle_faults hst .raise
  | storedHeader len nlen => exact settle_faults hst (.ite .raise (.ok (ite_ne_error (by nofun) (by nofun))))
  | storedByte b => exact settle_faults hst (.ok (flushCheck_ne_error (ite_ne_error (by nofun) (by nofun)) _))
  | cll len =>
    refine settle_faults hst ?_
    split
    · exact .fault
    · exact .ok (ite_ne_error (by nofun) (by nofun))
  | clLit c => exact settle_faults hst (.ite (.ok (by nofun)) .fault)
  | rep16 => exact settle_faults hst (.ite .raise (repeat_named _ _ previousLength))
  | zero17 => exact settle_faults hst (repeat_named _ _ fun _ => 0)
  | zero18 => exact settle_faults hst (repeat_named _ _ fun _ => 0)
  | lit b => exact settle_faults hst (.ok (flushCheck_ne_error (by nofun) _))
  | len257 | len258 | len259 | len260 | len261 | len262 | len263 | len264 | len265 | len266 | len267 | len268 | len269
  | len270 | len271 | len272 | len273 | len274 | len275 | len276 | len277 | len278 | len279 | len280 | len281 | len282
  | len283 | len284 | len285 => exact lengthMeaning_faults hst _
  | dist0 | dist1 | dist2 | dist3 | dist4 | dist5 | dist6 | dist7 | dist8 | dist9 | dist10 | dist11 | dist12 | dist13
  | dist14 | dist15 | dist16 | dist17 | dist18 | dist19 | dist20 | dist21 | dist22 | dist23 | dist24 | dist25 | dist26
  | dist27 | dist28 | dist29 => exact distMeaning_faults hst _
  | cmdTakeField n => exact settleCommand_faults hst (.checked (answer_take_named s (takeField_named s n) .value))
  | cmdTakeCode n => exact settleCommand_faults hst (.checked (answer_take_named s (takeCode_named s n) .value))
  | cmdPeekField n => exact settleCommand_faults hst (.checked (answer_look_named s (peekField_named s n) .value))
  | cmdPeekCode n => exact settleCommand_faults hst (.checked (answer_look_named s (peekCode_named s n) .value))
  | cmdDiscard n => exact settleCommand_faults hst (.checked (answer_completed_named s (discard_named s n)))
  | cmdAlign => exact settleCommand_faults hst (answer_completed_named s (discard_named s (alignPad s)))
  | cmdStartsWith p => exact settleCommand_faults hst (.checked (answer_look_named s .probe .flag))
  | cmdHasBits n => exact settleCommand_faults hst (.checked (answer_look_named s .probe .flag))
  | cmdAppendLiteral b => exact settleCommand_faults hst (.ok (by rfl))
  | cmdAppendBackref d => exact settleCommand_faults hst (answer_completed_named s (appendBackref_named s d))
  | cmdLastN n => exact settleCommand_faults hst ((lastN_named s n).bind fun _ _ => .ok (by rfl))
  | cmdWinRead i => exact execCmdWinRead_faults hst i
  | cmdBuild lens => exact settleCommand_faults hst (.checked (answer_look_named s (buildTable_named s lens) .table))
  | cmdDecode table => exact execCmdDecode_faults hst table
  | cmdReserved low => exact settleCommand_faults hst .refuse

/-- Nor does an internal step, but FLUSH where it returns to ERROR. -/
theorem internalStep_named (herr : s.fsm.state ≠ .error) (hret : s.fsm.state = .flush → s.fsm.retR ≠ .error) :
    NamesErrors (fun t => t.fsm.state ≠ .error) (internalStep s) := by
  cases hst : s.fsm.state <;> simp only [internalStep, hst]
  case fixedSetup => exact setup_named (by nofun) _ _
  case dynClBuild => exact (buildTable_named s _).bind fun _ _ => .ok nofun
  case dynLens => exact .ok nofun
  case dynBuild => exact setup_named (by nofun) _ _
  case copy =>
    exact (appendBackref_named s _).bind fun _ _ => .ok (flushCheck_ne_error (ite_ne_error (by nofun) (by nofun)) _)
  case flush =>
    exact .ite ((winByte_named s _).bind fun _ _ => .ok (ite_ne_error (hret hst) nofun)) (.ok herr)
  case blockEnd => exact .ite (.ok nofun) (.ite (.ok nofun) (.ok nofun))
  all_goals exact .ok herr

/-! ### The fetch -/

variable (s)

theorem readWord_named (f : Format) : NamesErrors (fun _ => True) (readWord f s) := by
  cases f with
  | zlibHdr16 | blockHdr3 =>
    exact (takeField_named s _).bind fun p _ => (takeField_named p.2 _).bind fun _ _ => .ok trivial
  | storedHdr32 =>
    exact (discard_named s _).bind fun t _ => (takeField_named t _).bind fun p _ =>
      (takeField_named p.2 _).bind fun _ _ => .ok trivial
  | byte8 | cll3 => exact (takeField_named s _).bind fun _ _ => .ok trivial
  | dynHdr14 =>
    exact (takeField_named s _).bind fun p _ => (takeField_named p.2 _).bind fun q _ =>
      (takeField_named q.2 _).bind fun _ _ => .ok trivial
  | clSym5 | llSym9 | dSym5 => exact (decodeWith_named s _).bind fun _ _ => .ok trivial
  | cmd4 =>
    rw [readWord]
    split
    · exact .fault
    · exact .ok trivial

theorem instrOf_named (f : Format) (v : Nat) : NamesErrors (fun _ => True) (instrOf f v s) := by
  unfold instrOf
  split
  · exact .ok trivial
  · exact .refuse
  · exact .fault
  · exact .fault

variable {s}

/-- A fetch that raises names an error. -/
theorem nextElement_named {r : Run Instr} (h : nextElement s = some r) : NamesErrors (fun _ => True) r := by
  obtain ⟨f, rfl⟩ | ⟨-, rfl⟩ | ⟨-, rfl⟩ := nextElement_some h
  · exact (readWord_named s f).bind fun v _ => instrOf_named s f v
  · exact .ite (instrOf_named s _ _) .fault
  · exact .ite (instrOf_named s _ _) .fault

/-- The fetch of a command does not raise: its word stands in the queue. -/
theorem fetch_command_ne_raise (k : ErrKind) (o : Nat) : fetch .cmd4 s ≠ .error (.raise k o) := by
  have hinstr : ∀ v, instrOf .cmd4 v s ≠ .error (.raise k o) := fun v => by
    unfold instrOf
    split <;> nofun
  cases hc : s.host.commands with
  | nil => rw [fetch, readWord, hc]; nofun
  | cons c rest => rw [fetch, readWord, hc]; exact hinstr _

/-! ### The step of the core -/

/-- With a command pending no step of the FSM runs and only the command can raise; with none, there is none to take. -/
theorem coreStep_faults (herr : s.fsm.state ≠ .error) (hret : s.fsm.state = .flush → s.fsm.retR ≠ .error) :
    FaultsFrom (popCommand s) (coreStep s) := by
  by_cases hdone : s.fsm.state = .done
  · intro t ht hterr
    obtain rfl : s = t := Host.Outcome.next.inj ((coreStep_sessionOver (.inl hdone)).symm.trans ht)
    exact absurd hterr herr
  by_cases hc : s.host.commands = []
  · rw [popCommand_eq_self hc, coreStep]
    cases hn : nextElement s with
    | none => exact settle_faults herr (internalStep_named herr hret)
    | some r =>
      cases nextElement_named hn with
      | @ok i _ =>
        have hfaults := exec_faults herr i
        rwa [faultBase, if_neg (fmt_ne_cmd4_of_nextElement hc hn)] at hfaults
      | stop he => exact settle_faults herr (.stop he)
  · have hover : sessionOver s = false := by simp [sessionOver, hdone, herr]
    rw [coreStep, nextElement_command hover hc]
    cases hf : fetch .cmd4 s with
    | ok i =>
      have hfaults := exec_faults herr i
      rwa [faultBase, if_pos (fmt_of_fetch hf)] at hfaults
    | error e =>
      intro t ht hterr
      obtain h | ⟨-, rfl⟩ | ⟨k, o, he, -⟩ := settle_next ht
      · cases h
      · exact absurd (holdInput_fsm s ▸ hterr) herr
      · exact absurd (Except.error.inj he ▸ hf) (fetch_command_ne_raise k o)

end

/-- Settles O49: the step faults from the state it began in, less the command that raised (`coreStep_faults`), and the cursor
never moves back. -/
theorem faultEntryIsPrecise : Obligations.FaultEntryIsPrecise := by
  intro s t ha herr hret hstep hterr
  have hcore : coreStep s = .next t := (step_of_no_actions ha).symm.trans hstep
  have hcursor := cursorNeverMovesBack s t hstep (by rw [resetting, ha]; rfl)
  obtain ⟨k, o, hk, rfl⟩ := coreStep_faults herr hret t hcore hterr
  exact ⟨k, o, hk, hcursor, rfl⟩

/-! ## REP16 with no previous length -/

/-- The check comes before the extra bits are read (44_code_lengths R821). -/
theorem exec_rep16_first {s : State} (h : s.fsm.lensN = 0) :
    exec .rep16 s = .next (takeFault .repeatWithoutPrevious (s.rd.offset + codeLength s.clLens 16) s) :=
  congrArg (settle s) (if_pos h)

/-- Settles O17: REP16 at LENS_N = 0 is the fault entry past its codeword. -/
theorem repeatWithoutPreviousRaises : Obligations.RepeatWithoutPreviousRaises :=
  fun s h => ⟨_, exec_rep16_first h, faulted_takeFault _ _ s, rfl⟩

end Sys2Proof.Machine

namespace Sys2Proof.Machine

/-! ## The block's fields and tables are latched

A step writes BFINAL_R and BTYPE_R, the body's tables or CL_LEN only in the states that set them up (70_reset R1217, R1214).
`Latched s t` says so of one step, and `SameBlock s t` that none of them changed, which is what nearly every step does. The
instructions that write are block headers, DYN_HEADER and CLL, and a word of their formats is fetched in one state each. -/

/-- The block header's fields and the length arrays are as before. -/
def SameBlock (s t : State) : Prop :=
  t.fsm.bfinalR = s.fsm.bfinalR ∧ t.fsm.btypeR = s.fsm.btypeR ∧ t.tbl = s.tbl

/-- What a step from `s` to `t` keeps, by the state it runs in. -/
structure Latched (s t : State) : Prop where
  header : s.fsm.state ≠ .hdr → t.fsm.bfinalR = s.fsm.bfinalR ∧ t.fsm.btypeR = s.fsm.btypeR
  bodyTables : s.fsm.state ≠ .fixedSetup → s.fsm.state ≠ .dynBuild →
    t.tbl.llLen = s.tbl.llLen ∧ t.tbl.dLen = s.tbl.dLen ∧ t.tbl.llN = s.tbl.llN ∧ t.tbl.dN = s.tbl.dN
  clLen : s.fsm.state ≠ .dynHdr → s.fsm.state ≠ .dynCll → t.tbl.clLen = s.tbl.clLen

/-- A run, where it answers, answers something of which `P` holds. -/
def Answers {α : Type} (P : α → Prop) (r : Run α) : Prop := ∀ a, r = .ok a → P a

/-- Every next state of an outcome is `Latched`. -/
def Latches (s : State) (o : Host.Outcome State Fault Refusal) : Prop := ∀ t, o = .next t → Latched s t

/-! ### Rules -/

section
variable {α β : Type} {s t u : State}

theorem SameBlock.refl (s : State) : SameBlock s s := ⟨rfl, rfl, rfl⟩

theorem SameBlock.trans (h : SameBlock s t) (h' : SameBlock t u) : SameBlock s u := by
  obtain ⟨hfinal, htype, htbl⟩ := h
  obtain ⟨hfinal', htype', htbl'⟩ := h'
  exact ⟨hfinal'.trans hfinal, htype'.trans htype, htbl'.trans htbl⟩

theorem SameBlock.of_eq (hfsm : t.fsm = s.fsm) (htbl : t.tbl = s.tbl) : SameBlock s t :=
  ⟨by rw [hfsm], by rw [hfsm], htbl⟩

theorem SameBlock.of_advance {n : Nat} (h : t = s.advance n) : SameBlock s t := h ▸ ⟨rfl, rfl, rfl⟩

theorem SameBlock.flushCheck (h : SameBlock s t) (next : FsmState) : SameBlock s (flushCheck next t) := by
  unfold Machine.flushCheck
  split <;> exact h

theorem SameBlock.latched (h : SameBlock s t) : Latched s t := by
  obtain ⟨hfinal, htype, htbl⟩ := h
  exact ⟨fun _ => ⟨hfinal, htype⟩, fun _ _ => by rw [htbl]; exact ⟨rfl, rfl, rfl, rfl⟩, fun _ _ => by rw [htbl]⟩

/-- HDR writes the block header's fields (43_block_fsm R712). -/
theorem Latched.of_hdr (hst : s.fsm.state = .hdr) (htbl : t.tbl = s.tbl) : Latched s t where
  header hne := absurd hst hne
  bodyTables _ _ := by rw [htbl]; exact ⟨rfl, rfl, rfl, rfl⟩
  clLen _ _ := by rw [htbl]

/-- FIXED_SETUP and DYN_BUILD write the body's tables (43_block_fsm R731, 44_code_lengths R840). -/
theorem Latched.of_setup (hst : s.fsm.state = .fixedSetup ∨ s.fsm.state = .dynBuild)
    (hheader : t.fsm.bfinalR = s.fsm.bfinalR ∧ t.fsm.btypeR = s.fsm.btypeR) (hcl : t.tbl.clLen = s.tbl.clLen) :
    Latched s t where
  header _ := hheader
  bodyTables hfixed hdyn := hst.elim (fun h => absurd h hfixed) fun h => absurd h hdyn
  clLen _ _ := hcl

/-- DYN_HDR and DYN_CLL write CL_LEN (44_code_lengths R810, R812). -/
theorem Latched.of_clLen (hst : s.fsm.state = .dynHdr ∨ s.fsm.state = .dynCll)
    (hheader : t.fsm.bfinalR = s.fsm.bfinalR ∧ t.fsm.btypeR = s.fsm.btypeR)
    (htbl : t.tbl = { s.tbl with clLen := t.tbl.clLen }) : Latched s t where
  header _ := hheader
  bodyTables _ _ := by rw [htbl]; exact ⟨rfl, rfl, rfl, rfl⟩
  clLen hhdr hcll := hst.elim (fun h => absurd h hhdr) fun h => absurd h hcll

theorem Answers.ok {P : α → Prop} {a : α} (h : P a) : Answers P (.ok a) := by rintro _ ⟨⟩; exact h

theorem Answers.error {P : α → Prop} {e : Stop} : Answers P (.error e) := nofun

theorem Answers.bind {P : α → Prop} {Q : β → Prop} {r : Run α} {k : α → Run β} (h : Answers P r)
    (hk : ∀ a, P a → Answers Q (k a)) : Answers Q (r >>= k) := by
  cases r with
  | ok a => exact hk a (h a rfl)
  | error e => exact .error

/-- What a run answers need not matter to what follows it. -/
theorem Answers.after {Q : β → Prop} {r : Run α} {k : α → Run β} (hk : ∀ a, Answers Q (k a)) : Answers Q (r >>= k) :=
  .bind (P := fun _ => True) (fun _ _ => trivial) fun a _ => hk a

theorem Answers.ite {P : α → Prop} {c : Prop} [Decidable c] {r r' : Run α} (h : Answers P r) (h' : Answers P r') :
    Answers P (if c then r else r') := by
  split
  · exact h
  · exact h'

theorem Answers.checked {P : State → Prop} {b : Bool} {r : Run State} (h : Answers P r) : Answers P (checked b r) :=
  .ite h .error

theorem Ends.answers {w : Nat} {P Q : α → Prop} {r : Run α} (h : Ends w s P r) (hpq : ∀ a, P a → Q a) : Answers Q r := by
  cases h with
  | ok h => exact .ok (hpq _ h)
  | stop => exact .error

theorem Latches.next (h : Latched s t) : Latches s (.next t) := by rintro _ ⟨⟩; exact h

theorem Latches.same (h : SameBlock s t) : Latches s (.next t) := .next h.latched

theorem Latches.refused (r : Refusal) : Latches s (.refused r) := by rintro _ ⟨⟩

/-- A hold and a raise write none of the latched components. -/
theorem settle_latches {r : Run State} (h : Answers (Latched s) r) : Latches s (settle s r) := by
  intro t ht
  obtain hok | ⟨-, rfl⟩ | ⟨k, o, -, rfl⟩ := settle_next ht
  · exact h t hok
  · exact (SameBlock.of_eq (holdInput_fsm s) (holdInput_tbl s)).latched
  · exact SameBlock.latched ⟨rfl, rfl, rfl⟩

theorem raise_latches (k : ErrKind) (o : Nat) : Latches s (settle s (.error (.raise k o))) := settle_latches .error

theorem settle_same {r : Run State} (h : Answers (SameBlock s) r) : Latches s (settle s r) :=
  settle_latches fun t ht => (h t ht).latched

theorem settleCommand_same {r : Run State} (h : Answers (SameBlock s) r) : Latches s (settleCommand s r) := by
  intro t ht
  obtain hok | ⟨-, rfl⟩ | ⟨k, o, -, rfl⟩ := settleCommand_next ht
  · exact (h t hok).latched
  · exact (SameBlock.of_eq (holdInput_fsm s) (holdInput_tbl s)).latched
  · exact SameBlock.latched ⟨rfl, rfl, rfl⟩

end

/-! ### The operations -/

section
variable (s : State)

theorem takeField_same (n : Nat) : Answers (fun p => SameBlock s p.2) (takeField n s) :=
  (takeField_ends (s := s) (w := 0) 0 n id).answers fun _ ⟨_, ht⟩ => .of_advance ht

theorem takeExtra_same (row : Nat × Nat) : Answers (fun p => SameBlock s p.2) (takeExtra row s) :=
  (takeField_same s row.1).bind fun _ h => .ok h

theorem takeCode_same (n : Nat) : Answers (fun p => SameBlock s p.2) (takeCode n s) :=
  (takeCode_ends (s := s) (w := 0) n).answers fun _ ⟨_, ht⟩ => .of_advance ht

theorem discard_same (n : Nat) : Answers (SameBlock s) (discard n s) :=
  (discard_ends (s := s) (w := 0) n).answers fun _ ⟨_, ht⟩ => .of_advance ht

theorem decodeWith_same (lens : List CodeLen) : Answers (fun p => SameBlock s p.2) (decodeWith lens s) :=
  (decodeWith_ends (s := s) (w := 0) lens).answers fun _ ⟨_, ht⟩ => .of_advance ht

theorem appendBackref_same (d : Nat) : Answers (SameBlock s) (appendBackref d s) :=
  (appendBackref_ends (s := s) (w := 0) d).answers fun _ ⟨_, ht⟩ => ht ▸ ⟨rfl, rfl, rfl⟩

/-- Extra bits after a codeword, then the run. -/
theorem repeat_same (row : Nat × Nat) (v : State → CodeLen) (sym : Nat) :
    Answers (SameBlock s) (takeExtra row (pastCl sym s) >>= fun p => repeatLength p.1 (v p.2) p.2) :=
  (takeExtra_same (pastCl sym s) row).bind fun _ h => .ite .error (.ok h)

/-- A command that looks at the input, the window or a table, and answers. -/
theorem answer_look_same {α : Type} (r : Run α) (f : α → Response) :
    Answers (SameBlock s) (r >>= fun a => .ok (answer (f a) s)) :=
  .after fun _ => .ok ⟨rfl, rfl, rfl⟩

variable {s}

/-- A command that takes bits and answers. -/
theorem answer_take_same {r : Run (Nat × State)} (h : Answers (fun p => SameBlock s p.2) r) (f : Nat → Response) :
    Answers (SameBlock s) (r >>= fun p => .ok (answer (f p.1) p.2)) :=
  h.bind fun _ h => .ok h

/-- A command that moves the cursor or appends, and has no value to answer. -/
theorem answer_completed_same {r : Run State} (h : Answers (SameBlock s) r) :
    Answers (SameBlock s) (r >>= fun t => .ok (answer .completed t)) :=
  h.bind fun _ h => .ok h

end

/-! ### The instructions -/

section
variable {s : State}

theorem lengthMeaning_latches (sym : Nat) : Latches s (lengthMeaning sym s) :=
  settle_same (.ite ((takeExtra_same s _).bind fun _ h => .ok h) (.ok ⟨rfl, rfl, rfl⟩))

theorem distMeaning_latches (sym : Nat) : Latches s (distMeaning sym s) :=
  settle_same (.ite ((takeExtra_same s _).bind fun _ h => .ite .error (.ok h)) (.ok ⟨rfl, rfl, rfl⟩))

theorem execCll_latches (hst : s.fsm.state = .dynCll) (len : BitVec 3) : Latches s (execCll len s) := by
  refine settle_latches ?_
  split
  · exact .error
  · exact .ok (.of_clLen (.inr hst) ⟨rfl, rfl⟩ rfl)

theorem execCmdWinRead_latches (i : Nat) : Latches s (execCmdWinRead i s) :=
  settleCommand_same (answer_look_same s (winRead i s) _)

theorem execCmdDecode_latches (table : TableSel) : Latches s (execCmdDecode table s) :=
  settleCommand_same (answer_take_same (decodeWith_same s _) .symbol)

/-- Every instruction, run in the state that reads its format where that is a header's. -/
theorem exec_latches (i : Instr)
    (hst : (encode i).fmt ∈ [Format.blockHdr3, .dynHdr14, .cll3] → s.fsm.state = readingState (encode i).fmt) :
    Latches s (exec i s) := by
  cases i with
  | blockStored f | blockFixed f | blockDynamic f =>
    exact .next (.of_hdr (hst (by simp [encode, Element.of])) rfl)
  | dynHeader hlit hdist hclen =>
    exact .next (.of_clLen (.inl (hst (by simp [encode, Element.of]))) ⟨rfl, rfl⟩ rfl)
  | cll len => exact execCll_latches (hst (by simp [encode, Element.of])) len
  | zlibHeader | storedHeader => exact settle_same (.ite .error (.ok ⟨rfl, rfl, rfl⟩))
  | blockInvalid | clInvalid19 | clInvalid20 | clInvalid24 | llInvalid | dInvalid => exact raise_latches _ _
  | storedByte | lit => exact .same (.flushCheck ⟨rfl, rfl, rfl⟩ _)
  | clLit c => exact settle_same (.ite (.ok ⟨rfl, rfl, rfl⟩) .error)
  | rep16 => exact settle_same (.ite .error (repeat_same s _ previousLength 16))
  | zero17 => exact settle_same (repeat_same s _ (fun _ => 0) 17)
  | zero18 => exact settle_same (repeat_same s _ (fun _ => 0) 18)
  | eob => exact .same ⟨rfl, rfl, rfl⟩
  | len257 | len258 | len259 | len260 | len261 | len262 | len263 | len264 | len265 | len266 | len267 | len268 | len269
  | len270 | len271 | len272 | len273 | len274 | len275 | len276 | len277 | len278 | len279 | len280 | len281 | len282
  | len283 | len284 | len285 => exact lengthMeaning_latches _
  | dist0 | dist1 | dist2 | dist3 | dist4 | dist5 | dist6 | dist7 | dist8 | dist9 | dist10 | dist11 | dist12 | dist13
  | dist14 | dist15 | dist16 | dist17 | dist18 | dist19 | dist20 | dist21 | dist22 | dist23 | dist24 | dist25 | dist26
  | dist27 | dist28 | dist29 => exact distMeaning_latches _
  | cmdTakeField n => exact settleCommand_same (.checked (answer_take_same (takeField_same s n) .value))
  | cmdTakeCode n => exact settleCommand_same (.checked (answer_take_same (takeCode_same s n) .value))
  | cmdDiscard n => exact settleCommand_same (.checked (answer_completed_same (discard_same s n)))
  | cmdAlign => exact settleCommand_same (answer_completed_same (discard_same s (alignPad s)))
  | cmdPeekField | cmdPeekCode | cmdStartsWith | cmdHasBits | cmdBuild =>
    exact settleCommand_same (.checked (answer_look_same s _ _))
  | cmdLastN n => exact settleCommand_same (answer_look_same s (lastN n s) _)
  | cmdWinRead i => exact execCmdWinRead_latches i
  | cmdAppendLiteral b => exact .same ⟨rfl, rfl, rfl⟩
  | cmdAppendBackref d => exact settleCommand_same (answer_completed_same (appendBackref_same s d))
  | cmdDecode table => exact execCmdDecode_latches table
  | cmdReserved low => exact .refused _

/-! ### The internal steps -/

/-- A setup step builds two tables, then writes. -/
theorem setup_answers {P : State → Prop} {t u : State} (hu : P u) (ll d : List CodeLen) :
    Answers P (buildTable ll t >>= fun _ => buildTable d t >>= fun _ => .ok u) :=
  .after fun _ => .after fun _ => .ok hu

theorem internalStep_latches : Latches s (settle s (internalStep s)) := by
  cases hst : s.fsm.state <;> simp only [internalStep, hst]
  case fixedSetup => exact settle_latches (setup_answers (.of_setup (.inl hst) ⟨rfl, rfl⟩ rfl) _ _)
  case dynBuild => exact settle_latches (setup_answers (.of_setup (.inr hst) ⟨rfl, rfl⟩ rfl) _ _)
  case dynClBuild => exact settle_same (.after fun _ => .ok ⟨rfl, rfl, rfl⟩)
  case copy =>
    refine settle_same ((appendBackref_same s _).bind fun _ h => .ok (.flushCheck ?_ _))
    exact h
  case flush => exact settle_same (.ite (.after fun _ => .ok ⟨rfl, rfl, rfl⟩) (.ok (.refl s)))
  case blockEnd =>
    exact settle_same (.ite (.ok ⟨rfl, rfl, rfl⟩) (.ite (.ok ⟨rfl, rfl, rfl⟩) (.ok ⟨rfl, rfl, rfl⟩)))
  all_goals exact settle_same (.ok ⟨rfl, rfl, rfl⟩)

/-! ### The step -/

/-- Each format of the stream is read in one state (10_state R120). -/
theorem state_of_streamFormat {f : Format} (h : streamFormat s = some f) : s.fsm.state = readingState f := by
  unfold streamFormat at h
  split at h
  case h_7 hst =>
    split at h <;> cases h
    exact hst
  all_goals cases h
  all_goals assumption

/-- A header's word is fetched in the state that reads its format. -/
theorem state_of_nextElement {i : Instr} (h : nextElement s = some (.ok i))
    (hf : (encode i).fmt ∈ [Format.blockHdr3, .dynHdr14, .cll3]) : s.fsm.state = readingState (encode i).fmt := by
  have hother : ∀ {f : Format}, f ∉ [Format.blockHdr3, .dynHdr14, .cll3] → (encode i).fmt ≠ f :=
    fun hnot he => hnot (he ▸ hf)
  unfold nextElement at h
  split at h
  · cases h
  · split at h
    · exact absurd (fmt_of_fetch (Option.some.inj h)) (hother (by decide))
    · split at h
      · exact absurd (fmt_of_fetchLength (Option.some.inj h)) (hother (by decide))
      · exact absurd (fmt_of_fetchDistance (Option.some.inj h)) (hother (by decide))
      all_goals
        obtain ⟨f, hstream, hfetch⟩ := Option.map_eq_some_iff.mp h
        rw [fmt_of_fetch hfetch]
        exact state_of_streamFormat hstream

theorem coreStep_latches (s : State) : Latches s (coreStep s) := by
  rw [coreStep]
  cases hn : nextElement s with
  | none => exact internalStep_latches
  | some r =>
    cases r with
    | ok i => exact exec_latches i (state_of_nextElement hn)
    | error e => exact settle_same .error

theorem writeZlib_same (b : Bool) (s : State) : SameBlock s (writeZlib b s) := by
  unfold writeZlib
  split <;> exact ⟨rfl, rfl, rfl⟩

theorem startSession_same (s : State) : SameBlock s (startSession s) := by
  unfold startSession
  split <;> exact ⟨rfl, rfl, rfl⟩

theorem writeReg_same (r : HostReg) (v : BitVec 64) (s : State) : SameBlock s (writeReg r v s) := by
  cases r with
  | ctrl =>
    unfold writeReg writeCtrl
    dsimp only
    split
    · exact (writeZlib_same _ s).trans (startSession_same _)
    · exact writeZlib_same _ s
  | cfgT =>
    unfold writeReg writeCfgT
    dsimp only
    split <;> exact ⟨rfl, rfl, rfl⟩
  | status | errOffset | inBits | outBytes => exact .refl s

theorem hostAction_same {a : HostAction} (ha : a ≠ .reset) (s : State) : SameBlock s (hostAction a s) := by
  cases a with
  | write r v => exact writeReg_same r v s
  | setZlib b => exact writeZlib_same b s
  | start => exact startSession_same s
  | reset => exact absurd rfl ha
  | deliver b =>
    rw [hostAction]
    obtain ⟨-, c, cs, -, h⟩ | ⟨-, h⟩ := deliverByte_cases b s <;> rw [h] <;> exact ⟨rfl, rfl, rfl⟩
  | endInput | ready | issue | pass => exact ⟨rfl, rfl, rfl⟩

/-- Every step of the machine that is no reset. -/
theorem step_latches (hr : resetting s = false) : Latches s (step s) := by
  intro t h
  obtain ⟨rest, hs⟩ | ⟨a, rest, ha, hs⟩ := step_cases s <;> rw [hs] at h
  · obtain ⟨hheader, hbody, hcl⟩ := coreStep_latches _ t h
    exact ⟨hheader, hbody, hcl⟩
  · obtain rfl := Host.Outcome.next.inj h
    have hne : a ≠ .reset := by rintro rfl; simp [resetting, ha] at hr
    exact SameBlock.latched (hostAction_same hne { s with host.actions := rest })

end

/-- Settles O53: the conclusion, clause by clause, is what `Latched` says of the step. -/
theorem blockFieldsAndTablesAreLatched : Obligations.BlockFieldsAndTablesAreLatched := by
  intro s t h hr
  obtain ⟨hheader, hbody, hcl⟩ := step_latches hr t h
  exact ⟨hheader, hbody, hcl⟩

/-! ## Reset -/

section
variable (s : State)

theorem applyReset_tableLens (sel : TableSel) : (applyReset s).tableLens sel = State.reset.tableLens sel := by
  cases sel <;> rfl

/-- No symbol has a codeword after a reset (42_huffman R603). -/
theorem build_reset (sel : TableSel) : build (State.reset.tableLens sel) = some [] := by
  cases sel <;> decide

/-- The reset values of 70_reset R1201. -/
theorem applyReset_resetValues : ResetValues (applyReset s) := by
  have hzero : ∀ {w n j : Nat}, j < n → (List.replicate n (0 : BitVec w))[j]? = some 0 :=
    fun h => List.getElem?_replicate_of_lt h
  exact ⟨rfl, rfl, rfl, rfl, rfl, rfl, fun _ h => hzero h, fun _ h => hzero h, fun _ h => hzero h, rfl, rfl,
    fun sel => (congrArg build (applyReset_tableLens s sel)).trans (build_reset sel), rfl, rfl, rfl, rfl, rfl, rfl, rfl, rfl,
    fun _ h => hzero h, rfl, rfl, rfl, rfl, rfl, rfl, rfl, rfl, rfl, rfl⟩

/-- In IDLE, with no command pending, no byte is requested (assumption log 15). -/
theorem applyReset_inReq : inReq (applyReset s) = false := inReq_of_coreStep_same (coreStep_idle rfl rfl)

end

/-- Settles O45: the reset state is what a reset leaves of itself, and a reset is one step of the host. -/
theorem resetGivesResetValues : Obligations.ResetGivesResetValues := by
  refine ⟨applyReset_resetValues State.reset, applyReset_inReq State.reset, rfl, rfl, rfl, fun s rest ha => ?_⟩
  exact ⟨_, step_reset ha, applyReset_resetValues _, applyReset_inReq _, rfl, rfl, rfl⟩

/-- Nothing has been produced or issued, and IDLE demands no more. -/
theorem reset_protocol : Protocol State.reset where
  ledger := ⟨rfl, fun _ => List.not_mem_nil, le_refl 0, rfl, fun _ hj => absurd hj (Nat.not_lt_zero _)⟩
  flushing := nofun
  notFlushing _ := (by decide : 0 < Config.flushThreshold.toNat)
  demands := rfl

/-- Settles O58: the reset state meets the protocol, and its storage is sound as after any reset. -/
theorem resetStartsSession : Obligations.ResetStartsSession := reset_protocol.session (applyReset_sound State.reset)

end Sys2Proof.Machine
